-- ==== Sys2Proof/Word.lean ====
section
/-! DEFINITION. The words of HLE-TSMUX: bytes of the memory `M`, 32-bit headers, addresses and counts,
64-bit operand words and result registers (00_scope.md R9, R10; 30_encoding.md R80). -/

namespace Sys2Proof

/-- One byte of memory or of an emitted stream. -/
abbrev Byte := BitVec 8

/-- A header word, an address of `M`, a count or a 32-bit register. -/
abbrev Word32 := BitVec 32

/-- An operand word, a result register or a binary64 bit pattern. -/
abbrev Word64 := BitVec 64

end Sys2Proof
end

