-- ==== Sys2Proof/Config.lean ====
section
/-! DEFINITION. What is fixed for this hardware (00_scope.md R8) and the free values of the model. -/

namespace Sys2Proof.Config

/-- `MEM_SIZE`, the implemented size of `M` in bytes (20_memory.md R60). DESIGN CHOICE (log 14): the
value the spec assumes, 2^32, every address implemented. -/
def memSize : Nat := 2 ^ 32

/-- What a byte of `M` reads as that neither the host nor a command has written. DESIGN CHOICE (log 4),
unsafe: 93_implementation_defined.md U7 leaves the contents of `M` after reset open. -/
def unwrittenByte : Byte := 0x00#8

/-- `TS_PACKET`: bytes of one transport packet. -/
def tsPacket : Nat := 188

/-- `TS_PAYLOAD_MAX`: a packet less its 4-byte header. -/
def tsPayloadMax : Nat := 184

/-- `TS_SYNC`. -/
def tsSync : Nat := 0x47

/-- `MAX_FRAMES[t]`, the same for both tracks (47_session.md R227). -/
def maxFrames : Nat := 1000

/-- `N_TRACKS`. -/
def nTracks : Nat := 2

/-- `PAT_PID`. -/
def patPid : Nat := 0

/-- `PROGRAM_NUMBER`. -/
def programNumber : Nat := 1

/-- `PTS_DTS_THRESHOLD`, in ticks of the 90 kHz clock. -/
def ptsDtsThreshold : Nat := 10

/-- `AAC_SAMPLES`: samples of one audio frame. -/
def aacSamples : Nat := 1024

/-- `PES_CLOCK`, ticks per second. -/
def pesClock : Nat := 90000

/-- `PCR_CLOCK`, ticks per second. -/
def pcrClock : Nat := 27000000

/-- The modulus of the PCR extension. -/
def pcrExtension : Nat := 300

/-- `SID_VIDEO`. -/
def sidVideo : Nat := 0xE0

/-- `SID_AUDIO`. -/
def sidAudio : Nat := 0xC0

/-- The CRC-32 polynomial (41_crc32.md R120; the spec marks it as general knowledge, log 15). -/
def crcPolynomial : Word32 := 0x04C11DB7#32

/-! ## Free values: nothing constrains them -/

/-- Sign of a NaN that `fadd`, `fmul` or `fdiv` produces from the two operands (log 8). -/
opaque nanSign : Word64 → Word64 → Bool

/-- Payload of a NaN that `fadd`, `fmul` or `fdiv` produces from the two operands (log 8). -/
opaque nanPayload : Word64 → Word64 → BitVec 51

/-- A timestamp entry (`pts` when the flag is false, `dts` when it is true) of a frame array at an index
that holds no valid entry; the arguments are the track index and the entry's index
(93_implementation_defined.md U8, log 7). -/
opaque staleTime : Bool → Nat → Nat → Word64

/-- A key-frame flag of a frame array at an index that holds no valid entry (U8, log 7). -/
opaque staleKey : Nat → Nat → Bool

/-- An extent entry (`size` when the flag is false, `offset` when it is true) at an index that holds no
valid entry (U8, log 7). -/
opaque staleExtent : Bool → Nat → Nat → Word32

end Sys2Proof.Config
end

