-- ==== Sys2Proof/Machine/BitString.lean ====
section
/-! DEFINITION. Bit fields in stream order and big-endian byte strings (00_scope.md R9, R11;
20_memory.md R65). -/

namespace Sys2Proof.Machine

/-- `be_(8n)(v)`: the low `n` bytes of `v`, most significant first (00_scope.md R11). -/
def beBytes : Nat → Nat → List Byte
  | 0, _ => []
  | n + 1, v => BitVec.ofNat 8 (v / 2 ^ (8 * n)) :: beBytes n v

/-- A field of a wire-format table: its width in bits and a value of which the low `width` bits count. -/
structure BitField where
  width : Nat
  value : Nat
deriving DecidableEq, Repr

/-- The total width of fields in stream order. -/
def fieldsWidth : List BitField → Nat
  | [] => 0
  | f :: fs => f.width + fieldsWidth fs

/-- The bit string of fields in stream order as one number, first field most significant, after the bit
string `acc`. -/
def fieldsValue (acc : Nat) : List BitField → Nat
  | [] => acc
  | f :: fs => fieldsValue (acc * 2 ^ f.width + f.value % 2 ^ f.width) fs

/-- The bytes of fields whose widths add up to whole bytes. -/
def packFields (fs : List BitField) : List Byte := beBytes (fieldsWidth fs / 8) (fieldsValue 0 fs)

/-- A flag as a 1-bit value. -/
def flag (b : Bool) : Nat := if b then 1 else 0

end Sys2Proof.Machine
end

