-- ==== Sys2Proof/Syntax.lean ====
section
/-! DEFINITION. The command set: register names, the words of the command port and the twenty commands,
one constructor of `Instr` for each row of the opcode table (30_encoding.md R80 to R84; 10_state.md R24). -/

namespace Sys2Proof

/-- The two tracks (10_state.md R42): `video` is track 0, the lead and PCR track; `audio` is track 1. -/
inductive TrackId where
  | video
  | audio
deriving DecidableEq, Repr

/-- The index of a track. -/
def TrackId.index : TrackId → Nat
  | .video => 0
  | .audio => 1

/-- The track a `TRACK` flag bit names. -/
def TrackId.ofBit : Bool → TrackId
  | false => .video
  | true => .audio

/-- Registers that exist once (10_state.md R24, indices 0x00 to 0x15). -/
inductive GlobalReg where
  | status | errlog | res0 | res1 | pmtPid | tsid | bias | audioBatch | psiCc
  | outBase | outCap | outWr | outPkts
  | bwBase | bwBound | bwBitcnt | bwPtr | bwAcc | bwAccn
deriving DecidableEq, Repr

/-- Registers that exist once for each track (10_state.md R24, offsets 0x0 to 0xE). -/
inductive TrackReg where
  | codec | nFrames | framesWritten | firstFrame | cc | tbufBase | tbufCap | wrCur | rdCur
  | repeatSeg | hasDts | tsNext | tsInc | rate | channels
deriving DecidableEq, Repr

/-- A register of the register file. Reserved indices name none. -/
inductive Reg where
  | global (r : GlobalReg)
  | track (t : TrackId) (r : TrackReg)
deriving DecidableEq, Repr

/-- One word at the command port: a 32-bit header or a 64-bit operand (30_encoding.md R80). -/
inductive PortWord where
  | header (h : Word32)
  | operand (w : Word64)
deriving DecidableEq, Repr

/-- The twenty commands with their operands in packet order: first what the header's `F` field carries,
then the operand words `W1` to `W6`, each kept as the 64 bits the host sent (30_encoding.md R83, R84). -/
inductive Instr where
  /-- `BW_INIT base, bound` (40_bitwriter.md R102) -/
  | bwInit (base bound : Word64)
  /-- `PUT_BITS width, value` (40_bitwriter.md R104) -/
  | putBits (width : BitVec 8) (value : Word64)
  /-- `PUT_BITS64 width, value` (40_bitwriter.md R105) -/
  | putBits64 (width : BitVec 8) (value : Word64)
  /-- `BW_FLUSH` (40_bitwriter.md R106) -/
  | bwFlush
  /-- `BW_COUNT` (40_bitwriter.md R107) -/
  | bwCount
  /-- `WRREG index, value` (47_session.md R242) -/
  | wrreg (reg : Reg) (value : Word64)
  /-- `RDREG index` (47_session.md R243) -/
  | rdreg (reg : Reg)
  /-- `CRC32 seed, addr, len` (41_crc32.md R124) -/
  | crc32 (seed addr len : Word64)
  /-- `TS_HDR flags, dst, cc, pid, pcr_time, payload_size` (42_ts_header.md R138) -/
  | tsHdr (pusi needPcr disc : Bool) (dst cc pid pcrTime payloadSize : Word64)
  /-- `PES_HDR stream_id, dst, bound, payload_size, pts, dts` (43_pes_header.md R158) -/
  | pesHdr (streamId : BitVec 8) (dst bound payloadSize pts dts : Word64)
  /-- `PACK flags, src, size, pts, dts, stream_id, pid` (44_packetizer.md R178) -/
  | pack (pcr track : Bool) (src size pts dts streamId pid : Word64)
  /-- `PAT dst, counter` (45_psi_tables.md R189) -/
  | pat (dst counter : Word64)
  /-- `PMT dst, counter` (45_psi_tables.md R194) -/
  | pmt (dst counter : Word64)
  /-- `REMUX` (46_selector.md R213) -/
  | remux
  /-- `INIT frame_rate, sample_rate, channel_count` (47_session.md R226) -/
  | init (frameRate sampleRate channelCount : Word64)
  /-- `APPEND flags, src, size, pts, dts` (47_session.md R230) -/
  | append (track key : Bool) (src size pts dts : Word64)
  /-- `ACCEPT_V flags, src, size, enc_status` (47_session.md R234) -/
  | acceptV (key : Bool) (src size encStatus : Word64)
  /-- `ACCEPT_A src, size, enc_status` (47_session.md R235) -/
  | acceptA (src size encStatus : Word64)
  /-- `RESET` (47_session.md R238) -/
  | reset
  /-- `TEARDOWN` (47_session.md R240) -/
  | teardown
deriving DecidableEq, Repr

end Sys2Proof
end

