-- ==== Sys2Proof/Machine/State.lean ====
section
/-! DEFINITION. The state of HLE-TSMUX as plain data (10_state.md), its error codes, the model's faults
and refusals, and the machine right after hardware reset. -/

namespace Sys2Proof.Machine

/-- `STATUS.SESSION` (10_state.md R22, R41). The code 3 never occurs and has no constructor (log 16). -/
inductive Session where
  | off
  | ready
  | failed
deriving DecidableEq, Repr

/-- The result of a command, `STATUS.ERR` (60_exceptions.md R251). -/
inductive ErrCode where
  /-- the command completed -/
  | ok
  /-- `E_ALLOC` -/
  | alloc
  /-- `E_OVERFLOW` -/
  | overflow
  /-- `E_ENCODE` -/
  | encode
  /-- `E_CAPACITY` -/
  | capacity
  /-- `E_ILLEGAL` -/
  | illegal
  /-- `E_BWBOUND` -/
  | bwBound
  /-- `E_RANGE` -/
  | range
  /-- `E_STATE` -/
  | state
deriving DecidableEq, Repr

/-- The phase of the remux sequencer (46_selector.md R215). -/
inductive Phase where
  | idle
  | tables
  | lead
  | select
  | done
deriving DecidableEq, Repr

/-- Why the model stops. Neither arises in a state that a run from reset reaches. -/
inductive Fault where
  /-- An access to `M` outside its 2^32 bytes. Raised by `State.load` and `State.store`. Safe: the command
  rules check every range first (60_exceptions.md R258), so only a state no run reaches gets here (log 5). -/
  | noSuchAddress
  /-- A remux pass that consumes no frame: `AUDIO_BATCH` is 0, which `WRREG` refuses (10_state.md R25). Raised by
  `selectLoop`. Safe: only a state no run reaches gets here (log 11). -/
  | remuxNoProgress
deriving DecidableEq, Repr

/-- What the model gives no meaning to. -/
inductive Refusal where
  /-- An instruction without a meaning, by its mnemonic. Raised by no arm of this model. Safe. -/
  | notModelled (mnemonic : String)
  /-- An overlap whose result the spec leaves unspecified and tells the model to refuse
  (20_memory.md R64, 93_implementation_defined.md U6). Raised by the bit-writer commands, the stand-alone
  builders, `PACK`, `APPEND`, `ACCEPT_V` and `ACCEPT_A`. Safe (log 6). -/
  | regionOverlap
  /-- The host has not kept the command port in step: an operand word where a header is due, or a header
  where an operand is due (93_implementation_defined.md U9). Raised by `step`. Safe (log 3). -/
  | portOutOfStep
deriving DecidableEq, Repr

/-- The outcome of a command. -/
abbrev Out (σ : Type) := Host.Outcome σ Fault Refusal

/-- The byte memory `M` (20_memory.md R60): the bytes that differ from `Config.unwrittenByte`, by address,
addresses strictly rising and below `Config.memSize`. `Memory.wf` says that this form holds. -/
abbrev Memory := List Host.Cell

/-- The seven bit-writer fields of 10_state.md R34 but `BW_VALID`, which is a flag of `STATUS`. -/
structure BitWriter where
  /-- `BW_BASE` -/
  base : Word32
  /-- `BW_BOUND` -/
  bound : Word32
  /-- `BW_BITCNT` -/
  bitcnt : Word64
  /-- `BW_PTR` -/
  ptr : Word32
  /-- `BW_ACC` -/
  acc : Word32
  /-- `BW_ACCN` -/
  accn : BitVec 6
deriving DecidableEq, Repr

/-- One index of the parallel sequences of Track Status (10_state.md R36). -/
structure FrameInfo where
  /-- `pts[t][i]` -/
  pts : Word64
  /-- `dts[t][i]` -/
  dts : Word64
  /-- `flags[t][i]`, the key-frame flag -/
  key : Bool
deriving DecidableEq, Repr

/-- One index of the parallel sequences of Track Data (10_state.md R38). -/
structure FrameExtent where
  /-- `offset[t][k]` -/
  offset : Word32
  /-- `size[t][k]` -/
  size : Word32
deriving DecidableEq, Repr

/-- One track: Track Status (10_state.md R36), Track Data (R38) and the derived timestamps (R40). The two
lists hold the entries that have been appended since the arrays were last released; every other entry is
unspecified (93_implementation_defined.md U8, log 7). -/
structure TrackState where
  /-- `CODEC[t]` -/
  codec : BitVec 8
  /-- `N_FRAMES[t]` -/
  nFrames : Word32
  /-- `pts[t]`, `dts[t]`, `flags[t]` from index 0 -/
  infos : List FrameInfo
  /-- `RATE[t]` -/
  rate : Word32
  /-- `CHANNELS[t]` -/
  channels : Word32
  /-- `REPEAT[t]` -/
  repeatSeg : Bool
  /-- `HAS_DTS[t]` -/
  hasDts : Bool
  /-- `TBUF_BASE[t]` -/
  tbufBase : Word32
  /-- `TBUF_CAP[t]` -/
  tbufCap : Word32
  /-- `WR_CUR[t]` -/
  wrCur : Word32
  /-- `RD_CUR[t]` -/
  rdCur : Word32
  /-- `offset[t]`, `size[t]` from index 0 -/
  extents : List FrameExtent
  /-- `FRAMES_WRITTEN[t]` -/
  framesWritten : Word32
  /-- `FIRST_FRAME[t]` -/
  firstFrame : Word32
  /-- `CC[t]` -/
  cc : BitVec 4
  /-- `TS_NEXT[t]` -/
  tsNext : Word64
  /-- `TS_INC[t]` -/
  tsInc : Word64
deriving DecidableEq, Repr

/-- The whole machine. `STATUS` is held as its fields and assembled by `State.statusWord` (log 16). -/
structure State where
  /-- `STATUS.SESSION` -/
  session : Session
  /-- `STATUS.BW_VALID` -/
  bwValid : Bool
  /-- `STATUS.OUT_VALID` -/
  outValid : Bool
  /-- `STATUS.ERR` -/
  err : ErrCode
  /-- `ERRLOG` -/
  errlog : Word32
  /-- `RES0` -/
  res0 : Word64
  /-- `RES1` -/
  res1 : Word64
  /-- `PMT_PID` -/
  pmtPid : BitVec 13
  /-- `TSID` -/
  tsid : BitVec 16
  /-- `BIAS` -/
  bias : Word64
  /-- `AUDIO_BATCH` -/
  audioBatch : Word32
  /-- `PSI_CC` -/
  psiCc : BitVec 4
  /-- `OUT_BASE` -/
  outBase : Word32
  /-- `OUT_CAP` -/
  outCap : Word32
  /-- `OUT_WR` -/
  outWr : Word32
  /-- `OUT_PKTS` -/
  outPkts : Word32
  /-- the bit writer -/
  bw : BitWriter
  /-- track 0 -/
  video : TrackState
  /-- track 1 -/
  audio : TrackState
  /-- the remux sequencer, `IDLE` between commands -/
  phase : Phase
  /-- the memory `M` -/
  mem : Memory
  /-- the MODEL's own field: the words the host has sent to the command port and the block has not taken,
  oldest first (log 1) -/
  port : List PortWord
deriving DecidableEq, Repr

/-- The bit writer after hardware reset (10_state.md R24). -/
def BitWriter.reset : BitWriter :=
  { base := 0#32, bound := 0#32, bitcnt := 0#64, ptr := 0#32, acc := 0#32, accn := 0#6 }

/-- A track after hardware reset (10_state.md R24, R46) with its reset `CODEC` and `TBUF_CAP`. -/
def TrackState.reset (codec : BitVec 8) (tbufCap : Word32) : TrackState :=
  { codec := codec, nFrames := 0#32, infos := [], rate := 0#32, channels := 0#32, repeatSeg := false,
    hasDts := true, tbufBase := 0#32, tbufCap := tbufCap, wrCur := 0#32, rdCur := 0#32, extents := [],
    framesWritten := 0#32, firstFrame := 0#32, cc := 0#4, tsNext := 0#64, tsInc := 0#64 }

/-- The machine right after hardware reset (10_state.md R46, 70_reset_and_hazards.md R275). -/
def State.reset : State :=
  { session := .off, bwValid := false, outValid := false, err := .ok, errlog := 0#32, res0 := 0#64,
    res1 := 0#64, pmtPid := 0x1000#13, tsid := 1#16, bias := 0x3FD3333333333333#64, audioBatch := 6#32,
    psiCc := 0#4, outBase := 0#32, outCap := 0#32, outWr := 0#32, outPkts := 0#32, bw := .reset,
    video := .reset 0x1B#8 1572864#32, audio := .reset 0x0F#8 524288#32, phase := .idle, mem := [],
    port := [] }

end Sys2Proof.Machine
end

