-- ==== Sys2Proof/Machine/Flags.lean ====
section
/-! DEFINITION. Every flag of the block: the error codes, the `STATUS` word and the sticky `ERRLOG`
(10_state.md R22, R23; 60_exceptions.md R251). -/

namespace Sys2Proof.Machine

/-- `STATUS[1:0]` (10_state.md R22). -/
def Session.code : Session → BitVec 2
  | .off => 0#2
  | .ready => 1#2
  | .failed => 2#2

/-- `STATUS[15:8]` (60_exceptions.md R251). -/
def ErrCode.code : ErrCode → BitVec 8
  | .ok => 0#8
  | .alloc => 1#8
  | .overflow => 2#8
  | .encode => 3#8
  | .capacity => 4#8
  | .illegal => 5#8
  | .bwBound => 6#8
  | .range => 7#8
  | .state => 8#8

/-- The `STATUS` word (10_state.md R22), most significant field first; reserved bits are 0. Its fields are held
apart (DESIGN CHOICE, log 16). -/
def State.statusWord (s : State) : Word32 :=
  0#16 ++ s.err.code ++ 0#4 ++ BitVec.ofBool s.outValid ++ BitVec.ofBool s.bwValid ++ s.session.code

/-- `ERRLOG` with the bit of an error code set (10_state.md R23). -/
def logError (log : Word32) (e : ErrCode) : Word32 := log ||| (1#32 <<< e.code.toNat)

end Sys2Proof.Machine
end

