-- ==== Sys2Proof/Machine/Float.lean ====
section
/-! DEFINITION. The binary64 primitives of 00_scope.md R12 over bit patterns, computed exactly and rounded
once to nearest, ties to even, and the clock conversions of R13 (log 9). -/

namespace Sys2Proof.Machine

/-- Sign bit, bit 63. -/
def f64Sign (a : Word64) : Bool := a.getLsbD 63

/-- Exponent field, bits 62:52. -/
def f64Exp (a : Word64) : Nat := (a.toNat / 2 ^ 52) % 2 ^ 11

/-- Fraction field, bits 51:0. -/
def f64Frac (a : Word64) : Nat := a.toNat % 2 ^ 52

/-- Neither a NaN nor an infinity (R12). -/
def finite (a : Word64) : Bool := f64Exp a != 2047

/-- A NaN. -/
def isNaN (a : Word64) : Bool := f64Exp a == 2047 && f64Frac a != 0

/-- A zero of either sign. -/
def isZero (a : Word64) : Bool := f64Exp a == 0 && f64Frac a == 0

/-- The magnitude of a finite pattern is `f64Mant a * 2 ^ f64Scale a` units of 2^-1074. -/
def f64Mant (a : Word64) : Nat := if f64Exp a = 0 then f64Frac a else f64Frac a + 2 ^ 52

/-- The exponent of the last place, counted from 2^-1074. -/
def f64Scale (a : Word64) : Nat := f64Exp a - 1

/-- The magnitude of a finite pattern in units of 2^-1074, an exact integer. -/
def f64Units (a : Word64) : Nat := f64Mant a * 2 ^ f64Scale a

/-- The signed value of a finite pattern in units of 2^-1074. -/
def f64Int (a : Word64) : Int := if f64Sign a then -(f64Units a : Int) else (f64Units a : Int)

/-- A pattern from its sign and its low 63 bits. -/
def f64OfMagnitude (neg : Bool) (m : Nat) : Word64 :=
  BitVec.ofNat 64 ((if neg then 2 ^ 63 else 0) + m)

/-- An infinity. -/
def f64Inf (neg : Bool) : Word64 := f64OfMagnitude neg (2047 * 2 ^ 52)

/-- The NaN an operation produces: quiet, its sign and payload free (log 8). -/
def f64NaN (a b : Word64) : Word64 :=
  f64OfMagnitude (Config.nanSign a b) (2047 * 2 ^ 52 + 2 ^ 51 + (Config.nanPayload a b).toNat)

/-- `n / 2 ^ d` rounded to the nearest integer, ties to even. -/
def roundShift (n d : Nat) : Nat :=
  let kept := n / 2 ^ d
  let lost := n % 2 ^ d
  if 2 * lost > 2 ^ d ∨ (2 * lost = 2 ^ d ∧ kept % 2 = 1) then kept + 1 else kept

/-- The binary64 pattern nearest to `± m * 2^-(1074 + u)`, ties to even (R12): the last place kept is the
larger of 2^-1074 and the one that leaves 53 significant bits, and a result too large is an infinity. -/
def f64Round (neg : Bool) (m u : Nat) : Word64 :=
  let d := max (Nat.log2 m - 52) u
  let bits := (d - u) * 2 ^ 52 + roundShift m d
  if bits < 2047 * 2 ^ 52 then f64OfMagnitude neg bits else f64Inf neg

/-- `fadd(a, b)` (R12). -/
def fadd (a b : Word64) : Word64 :=
  if isNaN a || isNaN b then f64NaN a b
  else if finite a && finite b then
    let v := f64Int a + f64Int b
    if v = 0 then f64OfMagnitude (f64Sign a && f64Sign b) 0
    else f64Round (decide (v < 0)) v.natAbs 0
  else if finite a then b
  else if finite b then a
  else if f64Sign a = f64Sign b then a
  else f64NaN a b

/-- `fmul(a, b)` (R12). -/
def fmul (a b : Word64) : Word64 :=
  let neg := f64Sign a ^^ f64Sign b
  if isNaN a || isNaN b then f64NaN a b
  else if finite a && finite b then f64Round neg (f64Units a * f64Units b) 1074
  else if isZero a || isZero b then f64NaN a b
  else f64Inf neg

/-- `fdiv(a, b)` (R12). The quotient is taken to one bit below 2^-1074 and one sticky bit more, which
decides every rounding. -/
def fdiv (a b : Word64) : Word64 :=
  let neg := f64Sign a ^^ f64Sign b
  if isNaN a || isNaN b then f64NaN a b
  else if finite a && finite b then
    if isZero b then (if isZero a then f64NaN a b else f64Inf neg)
    else
      let n := f64Units a * 2 ^ 1075
      let sticky := if n % f64Units b = 0 then 0 else 1
      f64Round neg (2 * (n / f64Units b) + sticky) 2
  else if finite a then f64OfMagnitude neg 0
  else if finite b then f64Inf neg
  else f64NaN a b

/-- `f64(n)`: exact for `n < 2^53` (R12). -/
def f64OfNat (n : Nat) : Word64 := f64Round false (n * 2 ^ 1074) 0

/-- The order of the non-NaN patterns: both zeros are 0. -/
def f64Key (a : Word64) : Int :=
  if f64Sign a then -((a.toNat % 2 ^ 63 : Nat) : Int) else ((a.toNat % 2 ^ 63 : Nat) : Int)

/-- `flt(a, b)`: the IEEE ordered comparison `a < b` (R12). -/
def flt (a b : Word64) : Bool :=
  !isNaN a && !isNaN b && decide (f64Key a < f64Key b)

/-- `ftoi(a)`: truncation toward zero; none unless `finite(a)` and `abs(a) < 2^63` (R12). -/
def ftoi (a : Word64) : Option Int :=
  if finite a = true ∧ f64Units a < 2 ^ (63 + 1074) then
    let m : Nat := f64Units a / 2 ^ 1074
    some (if f64Sign a then -(m : Int) else (m : Int))
  else none

/-- `ticks90(s)` with the register `BIAS` (R13): the PES timestamp in 90 kHz ticks. -/
def ticks90 (bias s : Word64) : Option Int :=
  ftoi (fmul (fadd s bias) (f64OfNat Config.pesClock))

/-- `ticks27M(s)` (R13): the PCR time in 27 MHz ticks, not biased. -/
def ticks27M (s : Word64) : Option Int :=
  ftoi (fmul s (f64OfNat Config.pcrClock))

end Sys2Proof.Machine
end

