-- ==== Sys2Proof/Machine/Operands.lean ====
section
/-! DEFINITION. The operand kinds of 30_encoding.md R83 and the region tests over them (20_memory.md R63,
R64). -/

namespace Sys2Proof.Machine

/-- An `addr` or `u32` operand: `W[63:32]` is 0. -/
def fits32 (w : Word64) : Bool := decide (w.toNat < 2 ^ 32)

/-- A region `[a, a + n)` lies in `M` (20_memory.md R63). -/
def inMemory (a n : Nat) : Bool := decide (a + n ≤ Config.memSize)

/-- A region named by an `addr` operand and a `u32` length operand passes the checks of
60_exceptions.md R258. -/
def regionOk (a n : Word64) : Bool := fits32 a && fits32 n && inMemory a.toNat n.toNat

/-- A destination of 188 bytes named by an `addr` operand passes the checks of R258. -/
def packetRoomOk (a : Word64) : Bool := fits32 a && inMemory a.toNat Config.tsPacket

/-- A `val` operand of which the low `n` bits count. -/
def lowBits (n : Nat) (w : Word64) : Nat := w.toNat % 2 ^ n

/-- A `u32` operand as a 32-bit value. -/
def low32 (w : Word64) : Word32 := w.setWidth 32

/-- The regions `[a, a + n)` and `[b, b + m)` share a byte. -/
def regionsOverlap (a n b m : Nat) : Bool := decide (max a b < min (a + n) (b + m))

end Sys2Proof.Machine
end

