-- ==== Sys2Proof/WellFormed.lean ====
section
/-! DEFINITION. Which commands a legal header can encode. Register indices are already names and flag
fields are single bits, so the one check left is that `WRREG` names a writable register (30_encoding.md
R85). Operand values out of range are legal encodings that end in `E_RANGE`. -/

namespace Sys2Proof

/-- Access class of a register (10_state.md R24). -/
inductive Access where
  /-- read-only: a `WRREG` to it raises `E_ILLEGAL` -/
  | ro
  /-- writable at any time -/
  | rw
  /-- `RW(OFF)`: writable only while `SESSION = OFF` -/
  | rwOff
deriving DecidableEq, Repr

/-- The access column of 10_state.md R24 for the global registers. -/
def GlobalReg.access : GlobalReg → Access
  | .status => .ro
  | .errlog => .ro
  | .res0 => .ro
  | .res1 => .ro
  | .pmtPid => .rw
  | .tsid => .rw
  | .bias => .rw
  | .audioBatch => .rw
  | .psiCc => .rw
  | .outBase => .rwOff
  | .outCap => .rwOff
  | .outWr => .ro
  | .outPkts => .ro
  | .bwBase => .ro
  | .bwBound => .ro
  | .bwBitcnt => .ro
  | .bwPtr => .ro
  | .bwAcc => .ro
  | .bwAccn => .ro

/-- The access column of 10_state.md R24 for the track registers. -/
def TrackReg.access : TrackReg → Access
  | .codec => .rw
  | .nFrames => .ro
  | .framesWritten => .ro
  | .firstFrame => .ro
  | .cc => .rw
  | .tbufBase => .rwOff
  | .tbufCap => .rwOff
  | .wrCur => .ro
  | .rdCur => .ro
  | .repeatSeg => .rw
  | .hasDts => .rw
  | .tsNext => .ro
  | .tsInc => .ro
  | .rate => .ro
  | .channels => .ro

/-- The access class of any register. -/
def Reg.access : Reg → Access
  | .global r => r.access
  | .track _ r => r.access

/-- The command has a legal header (30_encoding.md R85). -/
def Instr.wellFormed : Instr → Bool
  | .wrreg reg _ => decide (reg.access ≠ .ro)
  | .bwInit _ _ => true
  | .putBits _ _ => true
  | .putBits64 _ _ => true
  | .bwFlush => true
  | .bwCount => true
  | .rdreg _ => true
  | .crc32 _ _ _ => true
  | .tsHdr _ _ _ _ _ _ _ _ => true
  | .pesHdr _ _ _ _ _ _ => true
  | .pack _ _ _ _ _ _ _ _ => true
  | .pat _ _ => true
  | .pmt _ _ => true
  | .remux => true
  | .init _ _ _ => true
  | .append _ _ _ _ _ _ => true
  | .acceptV _ _ _ _ => true
  | .acceptA _ _ _ => true
  | .reset => true
  | .teardown => true

end Sys2Proof
end

