-- ==== Sys2Proof/Machine/Ops.lean ====
section
/-! DEFINITION. The named operations over memory, tracks, frame arrays and results that every command's
meaning is written with, the raising of an error among them (60_exceptions.md R262). -/

namespace Sys2Proof.Machine

/-! ## The memory `M` (20_memory.md) -/

/-- `M[a]`. -/
def Memory.read (m : Memory) (a : Nat) : Byte := (m.lookup a).getD Config.unwrittenByte

/-- `M[a] ++ … ++ M[a+n-1]` (00_scope.md R11). -/
def Memory.readBytes (m : Memory) (a n : Nat) : List Byte :=
  (List.range n).map (fun i => m.read (a + i))

/-- The listed cells of a byte string that lies from address `a` on. -/
def cellsFrom (a : Nat) : List Byte → Memory
  | [] => []
  | b :: bs =>
    if b = Config.unwrittenByte then cellsFrom (a + 1) bs else (a, b) :: cellsFrom (a + 1) bs

/-- Stores a byte string from address `a` on (00_scope.md R11), keeping the canonical form. -/
def Memory.writeBytes (m : Memory) (a : Nat) (bs : List Byte) : Memory :=
  m.filter (fun c => decide (c.1 < a)) ++ cellsFrom a bs ++
    m.filter (fun c => decide (a + bs.length ≤ c.1))

/-- Addresses strictly rise, every cell is an address of `M`, and none holds what an unlisted address
reads as. -/
def Memory.wf : Memory → Bool
  | [] => true
  | [c] => decide (c.1 < Config.memSize) && c.2 != Config.unwrittenByte
  | c :: d :: m => decide (c.1 < d.1) && c.2 != Config.unwrittenByte && Memory.wf (d :: m)

/-! ## Results of the units -/

/-- The result of an operation that is a sub-step of a command: a value, an error to raise, or a fault. -/
inductive Result (α : Type) where
  | ok (a : α)
  | err (e : ErrCode)
  | fault (f : Fault)
deriving DecidableEq, Repr

/-- Sequencing: what follows runs only after a value (`call` and `raise` of 00_scope.md R11). -/
def Result.bind {α β : Type} (r : Result α) (k : α → Result β) : Result β :=
  match r with
  | .ok a => k a
  | .err e => .err e
  | .fault f => .fault f

/-- A value if the option has one, else the error. -/
def Result.ofOption {α : Type} (e : ErrCode) : Option α → Result α
  | some a => .ok a
  | none => .err e

/-- `MemRead(addr, n)` (00_scope.md R11). -/
def State.load (s : State) (a n : Nat) : Result (List Byte) :=
  if inMemory a n then .ok (s.mem.readBytes a n) else .fault .noSuchAddress

/-- `MemWrite(addr, n, bytes)` (00_scope.md R11). -/
def State.store (s : State) (a : Nat) (bs : List Byte) : Result State :=
  if inMemory a bs.length then .ok { s with mem := s.mem.writeBytes a bs } else .fault .noSuchAddress

/-! ## How a command ends -/

/-- The effects of `raise E` (60_exceptions.md R262): the code in `STATUS.ERR`, the sticky bit in
`ERRLOG`, 0 in `RES0` and `RES1`, and nothing else. -/
def State.raiseError (s : State) (e : ErrCode) : State :=
  { s with err := e, errlog := logError s.errlog e, res0 := 0#64, res1 := 0#64 }

/-- The end of a command that succeeds (R262, 10_state.md R26). -/
def State.complete (s : State) (r0 r1 : Word64) : State :=
  { s with err := .ok, res0 := r0, res1 := r1 }

/-- A command that ends in an error: a next state (R250, R262). -/
def raise (e : ErrCode) (s : State) : Out State := .next (s.raiseError e)

/-- A command that succeeds with results. -/
def succeed (r0 r1 : Word64) (s : State) : Out State := .next (s.complete r0 r1)

/-- Ends the command that started in `s` with the result of its work: an error leaves `s` as it was but
for R262, which is what makes errors precise. -/
def conclude {α : Type} (s : State) (r : Result α) (k : α → Out State) : Out State :=
  match r with
  | .ok a => k a
  | .err e => raise e s
  | .fault f => .fault f

/-! ## Tracks and their frame arrays -/

/-- Track `t`. -/
def State.track (s : State) : TrackId → TrackState
  | .video => s.video
  | .audio => s.audio

/-- Replaces track `t`. -/
def State.setTrack (s : State) (t : TrackId) (tr : TrackState) : State :=
  match t with
  | .video => { s with video := tr }
  | .audio => { s with audio := tr }

/-- An unspecified entry of the Track Status arrays (93_implementation_defined.md U8, log 7). -/
def staleInfo (t : TrackId) (i : Nat) : FrameInfo :=
  { pts := Config.staleTime false t.index i, dts := Config.staleTime true t.index i,
    key := Config.staleKey t.index i }

/-- An unspecified entry of the Track Data arrays (U8, log 7). -/
def staleExtent (t : TrackId) (k : Nat) : FrameExtent :=
  { offset := Config.staleExtent true t.index k, size := Config.staleExtent false t.index k }

/-- `pts[t][i]`, `dts[t][i]`, `flags[t][i]`. -/
def State.info (s : State) (t : TrackId) (i : Nat) : FrameInfo :=
  (s.track t).infos.getD i (staleInfo t i)

/-- `offset[t][k]`, `size[t][k]`. -/
def State.extent (s : State) (t : TrackId) (k : Nat) : FrameExtent :=
  (s.track t).extents.getD k (staleExtent t k)

/-- `x[i] <- v` of an array of which `l` holds the entries from index 0: entries between the last held
one and `i` stay unspecified. -/
def putEntry {α : Type} (stale : Nat → α) (l : List α) (i : Nat) (v : α) : List α :=
  if i < l.length then l.set i v
  else l ++ (List.range (i - l.length)).map (fun j => stale (l.length + j)) ++ [v]

/-- The counters and cursors of a track zeroed, its frame arrays released (47_session.md R226, R238,
R240; U8). -/
def TrackState.emptied (tr : TrackState) : TrackState :=
  { tr with nFrames := 0#32, framesWritten := 0#32, firstFrame := 0#32, wrCur := 0#32, rdCur := 0#32,
            infos := [], extents := [] }

/-! ## Session regions (10_state.md R42, 20_memory.md R64) -/

/-- Track `t`'s buffer and the output region, as base and length. -/
def State.sessionRegions (s : State) : List (Nat × Nat) :=
  [(s.video.tbufBase.toNat, s.video.tbufCap.toNat), (s.audio.tbufBase.toNat, s.audio.tbufCap.toNat),
   (s.outBase.toNat, s.outCap.toNat)]

/-- A destination `[a, a + n)` overlaps a session region while a session exists: the results are
unspecified (20_memory.md R64) and the model refuses (93_implementation_defined.md U6, log 6). -/
def State.touchesSession (s : State) (a n : Nat) : Bool :=
  decide (s.session ≠ .off) && s.sessionRegions.any (fun r => regionsOverlap a n r.1 r.2)

/-! ## The register file (10_state.md R24, R25) -/

/-- The value of a track register, zero-extended to 64 bits. -/
def TrackState.readReg (tr : TrackState) : TrackReg → Word64
  | .codec => tr.codec.setWidth 64
  | .nFrames => tr.nFrames.setWidth 64
  | .framesWritten => tr.framesWritten.setWidth 64
  | .firstFrame => tr.firstFrame.setWidth 64
  | .cc => tr.cc.setWidth 64
  | .tbufBase => tr.tbufBase.setWidth 64
  | .tbufCap => tr.tbufCap.setWidth 64
  | .wrCur => tr.wrCur.setWidth 64
  | .rdCur => tr.rdCur.setWidth 64
  | .repeatSeg => (BitVec.ofBool tr.repeatSeg).setWidth 64
  | .hasDts => (BitVec.ofBool tr.hasDts).setWidth 64
  | .tsNext => tr.tsNext
  | .tsInc => tr.tsInc
  | .rate => tr.rate.setWidth 64
  | .channels => tr.channels.setWidth 64

/-- The value of a register, zero-extended to 64 bits (R24, 47_session.md R243). -/
def State.readReg (s : State) : Reg → Word64
  | .global .status => s.statusWord.setWidth 64
  | .global .errlog => s.errlog.setWidth 64
  | .global .res0 => s.res0
  | .global .res1 => s.res1
  | .global .pmtPid => s.pmtPid.setWidth 64
  | .global .tsid => s.tsid.setWidth 64
  | .global .bias => s.bias
  | .global .audioBatch => s.audioBatch.setWidth 64
  | .global .psiCc => s.psiCc.setWidth 64
  | .global .outBase => s.outBase.setWidth 64
  | .global .outCap => s.outCap.setWidth 64
  | .global .outWr => s.outWr.setWidth 64
  | .global .outPkts => s.outPkts.setWidth 64
  | .global .bwBase => s.bw.base.setWidth 64
  | .global .bwBound => s.bw.bound.setWidth 64
  | .global .bwBitcnt => s.bw.bitcnt
  | .global .bwPtr => s.bw.ptr.setWidth 64
  | .global .bwAcc => s.bw.acc.setWidth 64
  | .global .bwAccn => s.bw.accn.setWidth 64
  | .track t r => (s.track t).readReg r

/-- The legal set of a writable global register (R25); no value is legal for a read-only one. -/
def globalLegal (v : Word64) : GlobalReg → Bool
  | .pmtPid => decide (1 ≤ v.toNat ∧ v.toNat ≤ 0x1FFD)
  | .tsid => decide (v.toNat ≤ 0xFFFF)
  | .bias => finite v
  | .audioBatch => decide (1 ≤ v.toNat ∧ v.toNat ≤ 1000)
  | .psiCc => decide (v.toNat ≤ 15)
  | .outBase => fits32 v
  | .outCap => fits32 v
  | .status => false
  | .errlog => false
  | .res0 => false
  | .res1 => false
  | .outWr => false
  | .outPkts => false
  | .bwBase => false
  | .bwBound => false
  | .bwBitcnt => false
  | .bwPtr => false
  | .bwAcc => false
  | .bwAccn => false

/-- The legal set of a writable track register (R25); no value is legal for a read-only one. -/
def trackLegal (v : Word64) : TrackReg → Bool
  | .codec => decide (v.toNat ≤ 0xFF)
  | .cc => decide (v.toNat ≤ 15)
  | .tbufBase => fits32 v
  | .tbufCap => fits32 v
  | .repeatSeg => decide (v.toNat ≤ 1)
  | .hasDts => decide (v.toNat ≤ 1)
  | .nFrames => false
  | .framesWritten => false
  | .firstFrame => false
  | .wrCur => false
  | .rdCur => false
  | .tsNext => false
  | .tsInc => false
  | .rate => false
  | .channels => false

/-- The legal set of a register (R25). -/
def regLegal (v : Word64) : Reg → Bool
  | .global r => globalLegal v r
  | .track _ r => trackLegal v r

/-- `register[index] <- value` for a track register; a read-only register keeps its value. -/
def TrackState.writeReg (tr : TrackState) (v : Word64) : TrackReg → TrackState
  | .codec => { tr with codec := v.setWidth 8 }
  | .cc => { tr with cc := v.setWidth 4 }
  | .tbufBase => { tr with tbufBase := v.setWidth 32 }
  | .tbufCap => { tr with tbufCap := v.setWidth 32 }
  | .repeatSeg => { tr with repeatSeg := v.getLsbD 0 }
  | .hasDts => { tr with hasDts := v.getLsbD 0 }
  | .nFrames => tr
  | .framesWritten => tr
  | .firstFrame => tr
  | .wrCur => tr
  | .rdCur => tr
  | .tsNext => tr
  | .tsInc => tr
  | .rate => tr
  | .channels => tr

/-- `register[index] <- value` (47_session.md R242); a read-only register keeps its value. -/
def State.writeReg (s : State) (v : Word64) : Reg → State
  | .global .pmtPid => { s with pmtPid := v.setWidth 13 }
  | .global .tsid => { s with tsid := v.setWidth 16 }
  | .global .bias => { s with bias := v }
  | .global .audioBatch => { s with audioBatch := v.setWidth 32 }
  | .global .psiCc => { s with psiCc := v.setWidth 4 }
  | .global .outBase => { s with outBase := v.setWidth 32 }
  | .global .outCap => { s with outCap := v.setWidth 32 }
  | .global .status => s
  | .global .errlog => s
  | .global .res0 => s
  | .global .res1 => s
  | .global .outWr => s
  | .global .outPkts => s
  | .global .bwBase => s
  | .global .bwBound => s
  | .global .bwBitcnt => s
  | .global .bwPtr => s
  | .global .bwAcc => s
  | .global .bwAccn => s
  | .track t r => s.setTrack t ((s.track t).writeReg v r)

end Sys2Proof.Machine
end

