-- ==== Sys2Proof/Machine/BitWriter.lean ====
section
/-! DEFINITION. The bit writer (40_bitwriter.md): the append primitive and the commands `BW_INIT`,
`PUT_BITS`, `PUT_BITS64`, `BW_FLUSH`, `BW_COUNT`. -/

namespace Sys2Proof.Machine

/-- `bw_put(w, v)` (40_bitwriter.md R103): the low `w` bits of `v` enter the accumulator, and a full word
of 32 bits is committed to `M` (R101). Past the invariants of 10_state.md R34 the fields keep their low bits
(DESIGN CHOICE, log 17). -/
def bwPut (w v : Nat) (s : State) : Result State :=
  let b := s.bw
  let x := v % 2 ^ w
  if b.bitcnt.toNat + w > 8 * b.bound.toNat then .err .bwBound
  else if b.accn.toNat + w < 32 then
    .ok { s with bw := { b with acc := BitVec.ofNat 32 (b.acc.toNat * 2 ^ w + x),
                                accn := BitVec.ofNat 6 (b.accn.toNat + w),
                                bitcnt := BitVec.ofNat 64 (b.bitcnt.toNat + w) } }
  else
    let k := 32 - b.accn.toNat
    let word := b.acc.toNat * 2 ^ k + x / 2 ^ (w - k)
    (s.store (b.base.toNat + b.ptr.toNat) (beBytes 4 word)).bind fun s' =>
      .ok { s' with bw := { b with ptr := BitVec.ofNat 32 (b.ptr.toNat + 4),
                                   acc := BitVec.ofNat 32 (x % 2 ^ (w - k)),
                                   accn := BitVec.ofNat 6 (w - k),
                                   bitcnt := BitVec.ofNat 64 (b.bitcnt.toNat + w) } }

/-- The appends of `PUT_BITS64` (R105): the bound is checked once, then a wide field goes in two parts. -/
def bwPut64 (w v : Nat) (s : State) : Result State :=
  if s.bw.bitcnt.toNat + w > 8 * s.bw.bound.toNat then .err .bwBound
  else if w ≤ 32 then bwPut w v s
  else (bwPut (w - 32) (v / 2 ^ 32) s).bind (bwPut 32 (v % 2 ^ 32))

/-- The bytes still pending, 0 to 4 (R106). -/
def BitWriter.pendingBytes (b : BitWriter) : Nat := (b.accn.toNat + 7) / 8

/-- The zero bits that pad the pending ones to a byte boundary (R106). -/
def BitWriter.padBits (b : BitWriter) : Nat := 8 * b.pendingBytes - b.accn.toNat

/-- The writer's work of `BW_FLUSH` (R106). -/
def bwFlush (s : State) : Result State :=
  let b := s.bw
  (s.store (b.base.toNat + b.ptr.toNat) (beBytes b.pendingBytes (b.acc.toNat * 2 ^ b.padBits))).bind
    fun s' =>
      .ok { s' with bw := { b with ptr := BitVec.ofNat 32 (b.ptr.toNat + b.pendingBytes),
                                   bitcnt := BitVec.ofNat 64 (b.bitcnt.toNat + b.padBits),
                                   acc := 0#32, accn := 0#6 } }

/-- The writer after `BW_INIT` (R102). -/
def BitWriter.started (base bound : Word32) : BitWriter :=
  { base := base, bound := bound, bitcnt := 0#64, ptr := 0#32, acc := 0#32, accn := 0#6 }

/-- The writer's region lies over a session region (93_implementation_defined.md U6). -/
def State.writerTouchesSession (s : State) : Bool :=
  s.touchesSession s.bw.base.toNat s.bw.bound.toNat

/-- `RES0` of a command that reports the bit count: floor of `BW_BITCNT / 8` (R107). -/
def BitWriter.bytesWritten (b : BitWriter) : Word64 := BitVec.ofNat 64 (b.bitcnt.toNat / 8)

/-- `BW_INIT base, bound` (40_bitwriter.md R102). -/
def execBwInit (base bound : Word64) (s : State) : Out State :=
  if !regionOk base bound then raise .range s
  else if s.touchesSession base.toNat bound.toNat then .refused .regionOverlap
  else succeed 0#64 0#64 { s with bw := .started (low32 base) (low32 bound), bwValid := true }

/-- `PUT_BITS width, value` (40_bitwriter.md R104). -/
def execPutBits (width : BitVec 8) (value : Word64) (s : State) : Out State :=
  if !s.bwValid then raise .state s
  else if width.toNat > 32 then raise .range s
  else conclude s (bwPut width.toNat value.toNat s) fun s' =>
    if s.writerTouchesSession then .refused .regionOverlap else succeed 0#64 0#64 s'

/-- `PUT_BITS64 width, value` (40_bitwriter.md R105). -/
def execPutBits64 (width : BitVec 8) (value : Word64) (s : State) : Out State :=
  if !s.bwValid then raise .state s
  else if width.toNat > 64 then raise .range s
  else conclude s (bwPut64 width.toNat value.toNat s) fun s' =>
    if s.writerTouchesSession then .refused .regionOverlap else succeed 0#64 0#64 s'

/-- `BW_FLUSH` (40_bitwriter.md R106). -/
def execBwFlush (s : State) : Out State :=
  if !s.bwValid then raise .state s
  else conclude s (bwFlush s) fun s' =>
    if s.writerTouchesSession then .refused .regionOverlap
    else succeed s'.bw.bytesWritten s'.bw.bitcnt s'

/-- `BW_COUNT` (40_bitwriter.md R107). -/
def execBwCount (s : State) : Out State :=
  if !s.bwValid then raise .state s
  else succeed s.bw.bytesWritten s.bw.bitcnt s

end Sys2Proof.Machine
end

