-- ==== Sys2Proof/Machine/Crc.lean ====
section
/-! DEFINITION. The CRC-32/MPEG processor (41_crc32.md): the table, the update and `CRC32`. -/

namespace Sys2Proof.Machine

/-- One step of the table generator (41_crc32.md R122). -/
def crcShift (c : Word32) : Word32 :=
  if c.getLsbD 31 then (c <<< 1) ^^^ Config.crcPolynomial else c <<< 1

/-- `n` steps of the table generator. -/
def crcShifts : Nat → Word32 → Word32
  | 0, c => c
  | n + 1, c => crcShifts n (crcShift c)

/-- `CRC_TABLE[i]`, the constant table of 10_state.md R35 (41_crc32.md R122). -/
def crcTable (i : Byte) : Word32 := crcShifts 8 (i ++ 0#24)

/-- One byte of `crc_mpeg` (41_crc32.md R123; UNVERIFIED as the wire formats are, log 15). -/
def crcByte (c : Word32) (b : Byte) : Word32 :=
  (c <<< 8) ^^^ crcTable (c.extractLsb' 24 8 ^^^ b)

/-- `crc_mpeg(seed, data, length)` (41_crc32.md R123). -/
def crcMpeg (seed : Word32) (data : List Byte) : Word32 := data.foldl crcByte seed

/-- The default seed `-1`. -/
def crcSeed : Word32 := 0xFFFFFFFF#32

/-- `CRC32 seed, addr, len` (41_crc32.md R124). -/
def execCrc32 (seed addr len : Word64) (s : State) : Out State :=
  if !regionOk addr len then raise .range s
  else conclude s (s.load addr.toNat len.toNat) fun data =>
    succeed ((crcMpeg (low32 seed) data).setWidth 64) 0#64 s

end Sys2Proof.Machine
end

