-- ==== Sys2Proof/Machine/TsHeader.lean ====
section
/-! DEFINITION. The TS packet header builder (42_ts_header.md): the header function and `TS_HDR`. -/

namespace Sys2Proof.Machine

/-- `adaptation_field_control` (42_ts_header.md R133). -/
def tsAfc (needPcr disc : Bool) (payload : Nat) : Nat :=
  if payload ≥ Config.tsPayloadMax ∧ needPcr = false ∧ disc = false then 0b01
  else if payload = 0 then 0b10
  else 0b11

/-- The first four bytes, fields in stream order (42_ts_header.md R131, R132; UNVERIFIED, log 15). -/
def tsFixedFields (cc : Nat) (pusi : Bool) (pid afc : Nat) : List BitField :=
  [⟨8, Config.tsSync⟩,  -- sync_byte
   ⟨1, 0⟩,              -- transport_error_indicator
   ⟨1, flag pusi⟩,      -- payload_unit_start_indicator
   ⟨1, 0⟩,              -- transport_priority
   ⟨13, pid⟩,           -- PID
   ⟨2, 0⟩,              -- transport_scrambling_control
   ⟨2, afc⟩,            -- adaptation_field_control
   ⟨4, cc⟩]             -- continuity_counter

/-- The number of stuffing bytes (42_ts_header.md R135); subtraction stops at 0 as the rule's `max`. -/
def tsStuffing (needPcr : Bool) (payload : Nat) : Nat := 182 - 6 * flag needPcr - payload

/-- `adaptation_field_length` (42_ts_header.md R135). -/
def tsAfLength (needPcr : Bool) (payload : Nat) : Nat :=
  1 + 6 * flag needPcr + tsStuffing needPcr payload

/-- The adaptation field's length and flags bytes (42_ts_header.md R134). -/
def tsAdaptationFields (afl : Nat) (disc needPcr : Bool) : List BitField :=
  [⟨8, afl⟩,            -- adaptation_field_length
   ⟨1, flag disc⟩,      -- discontinuity_indicator
   ⟨1, 0⟩,              -- random_access_indicator
   ⟨1, 0⟩,              -- elementary_stream_priority_indicator
   ⟨1, flag needPcr⟩,   -- PCR_flag
   ⟨1, 0⟩,              -- OPCR_flag
   ⟨1, 0⟩,              -- splicing_point_flag
   ⟨1, 0⟩,              -- transport_private_data_flag
   ⟨1, 0⟩]              -- adaptation_field_extension_flag

/-- The low 33 bits of an integer, in two's complement (40_bitwriter.md R103). -/
def low33 (n : Int) : Nat := (n % 2 ^ 33).toNat

/-- The PCR of a 27 MHz tick count: base, six ones, extension (42_ts_header.md R136). Division is floor
division and the remainder is not negative. -/
def pcrFields (p : Int) : List BitField :=
  [⟨33, low33 (p / Config.pcrExtension)⟩, ⟨6, 0x3F⟩, ⟨9, (p % Config.pcrExtension).toNat⟩]

/-- `ts_header(cc, pusi, need_pcr, pcr_time, pid, disc, payload_size)` (42_ts_header.md R137); the PCR is
given as its tick count, none for `need_pcr = 0`. -/
def tsHeader (cc : Nat) (pusi : Bool) (pcr : Option Int) (pid : Nat) (disc : Bool) (payload : Nat) :
    List Byte :=
  let needPcr := pcr.isSome
  let afc := tsAfc needPcr disc payload
  let fixed := packFields (tsFixedFields cc pusi pid afc)
  if afc = 0b01 then fixed
  else
    fixed ++ packFields (tsAdaptationFields (tsAfLength needPcr payload) disc needPcr) ++
      (match pcr with
        | some p => packFields (pcrFields p)
        | none => []) ++
      List.replicate (tsStuffing needPcr payload) 0xFF#8

/-- The length of a header as a function of what decides it (42_ts_header.md R135, R137). -/
def tsHeaderLength (needPcr disc : Bool) (payload : Nat) : Nat :=
  if tsAfc needPcr disc payload = 0b01 then 4 else 5 + tsAfLength needPcr payload

/-- The PCR request of a command: its tick count where one is asked for, `E_RANGE` where the conversion
is outside its domain (60_exceptions.md R258); the time is not read when none is asked for. -/
def pcrRequest (needPcr : Bool) (time : Word64) : Result (Option Int) :=
  if needPcr then (Result.ofOption .range (ticks27M time)).bind (fun p => .ok (some p)) else .ok none

/-- `TS_HDR flags, dst, cc, pid, pcr_time, payload_size` (42_ts_header.md R138). -/
def execTsHdr (pusi needPcr disc : Bool) (dst cc pid pcrTime payloadSize : Word64) (s : State) :
    Out State :=
  if !(packetRoomOk dst && fits32 payloadSize) then raise .range s
  else conclude s (pcrRequest needPcr pcrTime) fun pcr =>
    let h := tsHeader (lowBits 4 cc) pusi pcr (lowBits 13 pid) disc payloadSize.toNat
    if s.touchesSession dst.toNat Config.tsPacket then .refused .regionOverlap
    else conclude s (s.store dst.toNat h) fun s' =>
      succeed (BitVec.ofNat 64 h.length) (BitVec.ofNat 64 (188 - h.length)) { s' with bwValid := false }

end Sys2Proof.Machine
end

