-- ==== Sys2Proof/Machine/PesHeader.lean ====
section
/-! DEFINITION. The PES header builder (43_pes_header.md): the header function and `PES_HDR`. -/

namespace Sys2Proof.Machine

/-- The stream id denotes video (43_pes_header.md R152). -/
def sidIsVideo (sid : Nat) : Bool := decide (sid % 256 / 16 = 0xE)

/-- Two timestamps rather than one (43_pes_header.md R155). -/
def pesBoth (p d : Int) : Bool := decide ((p - d).natAbs > Config.ptsDtsThreshold)

/-- `tlen` (43_pes_header.md R155). -/
def pesTlen (both : Bool) : Nat := if both then 10 else 5

/-- `PES_packet_length` (43_pes_header.md R152); the field keeps the low 16 bits. -/
def pesLength (sid payload : Nat) (both : Bool) : Nat :=
  if sidIsVideo sid then 0 else payload + 3 + pesTlen both

/-- `ts_field(pre, T)` (43_pes_header.md R156): each field takes the low bits its width names. -/
def pesTimeFields (pre : Nat) (t : Int) : List BitField :=
  [⟨4, pre⟩, ⟨3, low33 t / 2 ^ 30⟩, ⟨1, 1⟩, ⟨15, low33 t / 2 ^ 15⟩, ⟨1, 1⟩, ⟨15, low33 t⟩, ⟨1, 1⟩]

/-- The fields before the timestamps, in stream order (43_pes_header.md R151, R153). -/
def pesFixedFields (sid payload : Nat) (both : Bool) : List BitField :=
  [⟨24, 0x000001⟩,                      -- packet_start_code_prefix
   ⟨8, sid⟩,                            -- stream_id
   ⟨16, pesLength sid payload both⟩,    -- PES_packet_length
   ⟨2, 0b10⟩,                           -- marker
   ⟨2, 0⟩,                              -- PES_scrambling_control
   ⟨1, 0⟩,                              -- PES_priority
   ⟨1, 0⟩,                              -- data_alignment_indicator
   ⟨1, 0⟩,                              -- copyright
   ⟨1, 0⟩,                              -- original_or_copy
   ⟨2, if both then 0b11 else 0b10⟩,    -- PTS_DTS_flags
   ⟨1, 0⟩,                              -- ESCR_flag
   ⟨1, 0⟩,                              -- ES_rate_flag
   ⟨1, 0⟩,                              -- DSM_trick_mode_flag
   ⟨1, 0⟩,                              -- additional_copy_info_flag
   ⟨1, 0⟩,                              -- PES_CRC_flag
   ⟨1, 0⟩,                              -- PES_extension_flag
   ⟨8, pesTlen both⟩]                   -- PES_header_data_length

/-- The timestamp fields with their prefixes (43_pes_header.md R157). -/
def pesTimes (p d : Int) : List BitField :=
  if pesBoth p d then pesTimeFields 0b0011 p ++ pesTimeFields 0b0001 d else pesTimeFields 0b0010 p

/-- `pes_header(payload_size, pts, dts, stream_id)` (43_pes_header.md R150 to R157), the timestamps given
as their tick counts. -/
def pesHeader (payload : Nat) (p d : Int) (sid : Nat) : List Byte :=
  packFields (pesFixedFields sid payload (pesBoth p d) ++ pesTimes p d)

/-- The tick counts of a frame's two timestamps, `E_RANGE` where either conversion is outside its domain
(43_pes_header.md R154, 60_exceptions.md R258). -/
def pesTicks (bias pts dts : Word64) : Result (Int × Int) :=
  (Result.ofOption .range (ticks90 bias pts)).bind fun p =>
    (Result.ofOption .range (ticks90 bias dts)).bind fun d => .ok (p, d)

/-- `PES_HDR stream_id, dst, bound, payload_size, pts, dts` (43_pes_header.md R158). -/
def execPesHdr (streamId : BitVec 8) (dst bound payloadSize pts dts : Word64) (s : State) :
    Out State :=
  if !(regionOk dst bound && fits32 payloadSize && finite pts && finite dts) then raise .range s
  else conclude s (pesTicks s.bias pts dts) fun t =>
    let q := pesHeader payloadSize.toNat t.1 t.2 streamId.toNat
    if q.length > bound.toNat then raise .bwBound s
    else if s.touchesSession dst.toNat bound.toNat then .refused .regionOverlap
    else conclude s (s.store dst.toNat q) fun s' =>
      succeed (BitVec.ofNat 64 q.length) (BitVec.ofNat 64 (flag (pesBoth t.1 t.2)))
        { s' with bwValid := false }

end Sys2Proof.Machine
end

