-- ==== Sys2Proof/Machine/Packetizer.lean ====
section
/-! DEFINITION. The packetizer (44_packetizer.md): packet count, packets, the procedure and `PACK`. -/

namespace Sys2Proof.Machine

/-- The loop of `packet_count` (44_packetizer.md R177) with `rem` bytes left; the first argument bounds the
iterations, and `rem` of them always suffice because every packet takes at least one byte. -/
def packetCountFrom : Nat → Bool → Nat → Nat
  | 0, _, _ => 0
  | fuel + 1, needPcr, rem =>
    if rem = 0 then 0
    else 1 + packetCountFrom fuel false (rem - min (188 - tsHeaderLength needPcr false rem) rem)

/-- `packet_count(total, is_pcr)` (44_packetizer.md R177). -/
def packetCount (total : Nat) (isPcr : Bool) : Nat := packetCountFrom total isPcr total

/-- One packet: the header and as much of `data` as fits after it (44_packetizer.md R171). -/
def tsPacketOf (cc : Nat) (first : Bool) (pcr : Option Int) (pid : Nat) (data : List Byte) :
    List Byte :=
  let h := tsHeader cc first pcr pid false data.length
  h ++ data.take (min (188 - h.length) data.length)

/-- What of `data` is left after the packet of `tsPacketOf`. -/
def tsPacketRest (cc : Nat) (first : Bool) (pcr : Option Int) (pid : Nat) (data : List Byte) :
    List Byte :=
  let h := tsHeader cc first pcr pid false data.length
  data.drop (min (188 - h.length) data.length)

/-- `n` iterations of the loop of 44_packetizer.md R171: only the first carries the start flag and the
PCR, and the counter rises by one for each packet. -/
def packets : Nat → Nat → Bool → Option Int → Nat → List Byte → List (List Byte)
  | 0, _, _, _, _, _ => []
  | n + 1, cc, first, pcr, pid, data =>
    tsPacketOf cc first pcr pid data ::
      packets n (cc + 1) false none pid (tsPacketRest cc first pcr pid data)

/-- Appends whole packets to the output region and advances `OUT_WR`, `OUT_PKTS` and `CC[t]` by their
number (44_packetizer.md R171, R175); past 32 bits they keep their low bits (DESIGN CHOICE, log 17). -/
def State.emitPackets (s : State) (t : TrackId) (ps : List (List Byte)) : Result State :=
  (s.store (s.outBase.toNat + s.outWr.toNat) ps.flatten).bind fun s' =>
    .ok ({ s' with outWr := BitVec.ofNat 32 (s.outWr.toNat + 188 * ps.length),
                   outPkts := BitVec.ofNat 32 (s.outPkts.toNat + ps.length) }.setTrack t
          { s.track t with cc := BitVec.ofNat 4 ((s.track t).cc.toNat + ps.length) })

/-- `packetize(t, src, size, pts, dts, stream_id, pid, is_pcr)` (44_packetizer.md R171): the state after it
and the number of packets. Every check comes before the first write (R179). -/
def packetize (t : TrackId) (src size : Nat) (pts dts : Word64) (sid pid : Nat) (isPcr : Bool)
    (s : State) : Result (State × Nat) :=
  (pesTicks s.bias pts dts).bind fun ticks =>
  (pcrRequest isPcr dts).bind fun pcr =>
  (s.load src size).bind fun frame =>
    let data := pesHeader size ticks.1 ticks.2 sid ++ frame
    let n := packetCount data.length isPcr
    if s.outWr.toNat + 188 * n > s.outCap.toNat then .err .overflow
    else (s.emitPackets t (packets n (s.track t).cc.toNat true pcr pid data)).bind fun s' => .ok (s', n)

/-- `PACK`'s source overlaps the `n` packets it writes (20_memory.md R64, 93_implementation_defined.md U6,
log 6). -/
def packOverlap (src size n : Nat) (s : State) : Bool :=
  regionsOverlap src size (s.outBase.toNat + s.outWr.toNat) (188 * n)

/-- `PACK flags, src, size, pts, dts, stream_id, pid` (44_packetizer.md R178). -/
def execPack (pcr track : Bool) (src size pts dts streamId pid : Word64) (s : State) : Out State :=
  if s.session ≠ .ready then raise .state s
  else if !(regionOk src size && finite pts && finite dts) then raise .range s
  else conclude s
      (packetize (.ofBit track) src.toNat size.toNat pts dts (lowBits 8 streamId) (lowBits 13 pid) pcr s)
      fun r =>
    if packOverlap src.toNat size.toNat r.2 s then .refused .regionOverlap
    else succeed (BitVec.ofNat 64 r.2) (r.1.outWr.setWidth 64)
      { r.1 with outValid := false, bwValid := false }

end Sys2Proof.Machine
end

