-- ==== Sys2Proof/Machine/Psi.lean ====
section
/-! DEFINITION. The PAT and PMT section encoder (45_psi_tables.md): the packets and the commands `PAT`
and `PMT`. -/

namespace Sys2Proof.Machine

/-- `pid_of(t) = PMT_PID + N_TRACKS - t` (45_psi_tables.md R190). -/
def State.pidOf (s : State) (t : TrackId) : Nat := s.pmtPid.toNat + Config.nTracks - t.index

/-- `CODEC[t]`. -/
def State.codecOf (s : State) (t : TrackId) : Nat := (s.track t).codec.toNat

/-- The PAT section before its CRC, fields in stream order (45_psi_tables.md R186). -/
def patFields (s : State) : List BitField :=
  [⟨8, 0x00⟩,                    -- table_id
   ⟨1, 1⟩,                       -- section_syntax_indicator
   ⟨1, 0⟩,                       -- '0'
   ⟨2, 0b11⟩,                    -- reserved
   ⟨12, 13⟩,                     -- section_length
   ⟨16, s.tsid.toNat⟩,           -- transport_stream_id
   ⟨2, 0b11⟩,                    -- reserved
   ⟨5, 0⟩,                       -- version_number
   ⟨1, 1⟩,                       -- current_next_indicator
   ⟨8, 0⟩,                       -- section_number
   ⟨8, 0⟩,                       -- last_section_number
   ⟨16, Config.programNumber⟩,   -- program_number
   ⟨3, 0b111⟩,                   -- reserved
   ⟨13, s.pmtPid.toNat⟩]         -- program_map_PID

/-- The entry of one track in the PMT, five bytes (45_psi_tables.md R191). -/
def pmtEntry (s : State) (t : TrackId) : List BitField :=
  [⟨8, s.codecOf t⟩,             -- stream_type
   ⟨3, 0b111⟩,                   -- reserved
   ⟨13, s.pidOf t⟩,              -- elementary_PID
   ⟨4, 0b1111⟩,                  -- reserved
   ⟨12, 0⟩]                      -- ES_info_length

/-- The PMT section before its CRC, fields in stream order, the highest track index first
(45_psi_tables.md R191). -/
def pmtFields (s : State) : List BitField :=
  [⟨8, 0x02⟩,                            -- table_id
   ⟨1, 1⟩,                               -- section_syntax_indicator
   ⟨1, 0⟩,                               -- '0'
   ⟨2, 0b11⟩,                            -- reserved
   ⟨12, 13 + 5 * Config.nTracks⟩,        -- section_length
   ⟨16, Config.programNumber⟩,           -- program_number
   ⟨2, 0b11⟩,                            -- reserved
   ⟨5, 0⟩,                               -- version_number
   ⟨1, 1⟩,                               -- current_next_indicator
   ⟨8, 0⟩,                               -- section_number
   ⟨8, 0⟩,                               -- last_section_number
   ⟨3, 0b111⟩,                           -- reserved
   ⟨13, s.pidOf .video⟩,                 -- PCR_PID
   ⟨4, 0b1111⟩,                          -- reserved
   ⟨12, 0⟩]                              -- program_info_length
  ++ pmtEntry s .audio ++ pmtEntry s .video

/-- A table packet: TS header, pointer byte, section, CRC, and 0xFF to byte 187 (45_psi_tables.md R185,
R187, R188, R193). -/
def tablePacket (counter pid : Nat) (body : List Byte) : List Byte :=
  let used := tsHeader counter true none pid false Config.tsPayloadMax ++ 0x00#8 :: body ++
    beBytes 4 (crcMpeg crcSeed body).toNat
  used ++ List.replicate (Config.tsPacket - used.length) 0xFF#8

/-- `pat_packet(counter)` (45_psi_tables.md R187). -/
def patPacket (s : State) (counter : Nat) : List Byte :=
  tablePacket counter Config.patPid (packFields (patFields s))

/-- `pmt_packet(counter)` (45_psi_tables.md R193). -/
def pmtPacket (s : State) (counter : Nat) : List Byte :=
  tablePacket counter s.pmtPid.toNat (packFields (pmtFields s))

/-- What `PAT` and `PMT` share (45_psi_tables.md R189, R194). -/
def writeTable (dst : Word64) (packet : List Byte) (s : State) : Out State :=
  if !packetRoomOk dst then raise .range s
  else if s.touchesSession dst.toNat Config.tsPacket then .refused .regionOverlap
  else conclude s (s.store dst.toNat packet) fun s' =>
    succeed 188#64 0#64 { s' with bwValid := false }

/-- `PAT dst, counter` (45_psi_tables.md R189). -/
def execPat (dst counter : Word64) (s : State) : Out State :=
  writeTable dst (patPacket s (lowBits 4 counter)) s

/-- `PMT dst, counter` (45_psi_tables.md R194). -/
def execPmt (dst counter : Word64) (s : State) : Out State :=
  writeTable dst (pmtPacket s (lowBits 4 counter)) s

end Sys2Proof.Machine
end

