-- ==== Sys2Proof/Machine/Registers.lean ====
section
/-! DEFINITION. Register access: `WRREG` and `RDREG` (47_session.md R242, R243). -/

namespace Sys2Proof.Machine

/-- `WRREG index, value` (47_session.md R242). A reserved index does not name a register; the decoder
answers it with the same `E_ILLEGAL` (30_encoding.md R85). -/
def execWrreg (reg : Reg) (value : Word64) (s : State) : Out State :=
  if reg.access = .ro then raise .illegal s
  else if reg.access = .rwOff ∧ s.session ≠ .off then raise .state s
  else if !regLegal value reg then raise .range s
  else succeed 0#64 0#64 (s.writeReg value reg)

/-- `RDREG index` (47_session.md R243): the value before this command's own update. -/
def execRdreg (reg : Reg) (s : State) : Out State :=
  succeed (s.readReg reg) 0#64 s

end Sys2Proof.Machine
end

