-- ==== Sys2Proof/Machine/Selector.lean ====
section
/-! DEFINITION. The track selector and the remux pass (46_selector.md): the helpers, the phases and
`REMUX`. -/

namespace Sys2Proof.Machine

/-! ## Helpers (46_selector.md R206) -/

/-- `next(t) = FIRST_FRAME[t] + FRAMES_WRITTEN[t]`. -/
def State.nextFrame (s : State) (t : TrackId) : Nat :=
  (s.track t).firstFrame.toNat + (s.track t).framesWritten.toNat

/-- `avail(t)`: track `t` has a remaining unconsumed frame. -/
def State.avail (s : State) (t : TrackId) : Bool :=
  decide (s.nextFrame t < (s.track t).nFrames.toNat)

/-- `raw(t, i)`. -/
def State.rawTime (s : State) (t : TrackId) (i : Nat) : Word64 :=
  if (s.track t).hasDts then (s.info t i).dts else (s.info t i).pts

/-- `lead_first`: the lead track's first-frame timestamp. -/
def State.leadFirst (s : State) : Word64 := s.rawTime .video s.video.firstFrame.toNat

/-- The segment offset a track's `REPEAT` flag asks for. -/
def State.offsetTime (s : State) (t : TrackId) (x : Word64) : Word64 :=
  if (s.track t).repeatSeg then fadd x s.leadFirst else x

/-- `eff_pts(t, i)`. -/
def State.effPts (s : State) (t : TrackId) (i : Nat) : Word64 := s.offsetTime t (s.info t i).pts

/-- `eff_dts(t, i)`. -/
def State.effDts (s : State) (t : TrackId) (i : Nat) : Word64 :=
  if (s.track t).hasDts then s.offsetTime t (s.info t i).dts else s.effPts t i

/-- `key(t)`: the value the selector compares. -/
def State.selectKey (s : State) (t : TrackId) : Word64 := s.effDts t (s.nextFrame t)

/-- `sid(t)`. -/
def sidOf : TrackId → Nat
  | .video => Config.sidVideo
  | .audio => Config.sidAudio

/-! ## The phases -/

/-- `select()` (46_selector.md R209): an equal key never displaces the earlier track. A key that is not finite is
compared by the IEEE rule (DEDUCED, log 20). -/
def State.select (s : State) : Option TrackId :=
  if s.avail .video then
    if s.avail .audio && flt (s.selectKey .audio) (s.selectKey .video) then some .audio
    else some .video
  else if s.avail .audio then some .audio
  else none

/-- `nb`: the number of frames one selection of track `t` takes (46_selector.md R210). -/
def State.batchSize (s : State) (t : TrackId) : Nat :=
  match t with
  | .video => 1
  | .audio => min s.audioBatch.toNat (s.audio.nFrames.toNat - s.nextFrame .audio)

/-- `size[t][k] + … + size[t][k+nb-1]` (46_selector.md R210). -/
def State.batchBytes (s : State) (t : TrackId) (k : Nat) : Nat → Nat
  | 0 => 0
  | nb + 1 => (s.extent t k).size.toNat + s.batchBytes t (k + 1) nb

/-- A track whose consumed frames end at index `frames` and at byte `bytes` of its buffer
(46_selector.md R210). -/
def TrackState.consumed (tr : TrackState) (frames bytes : Nat) : TrackState :=
  { tr with framesWritten := BitVec.ofNat 32 frames, rdCur := BitVec.ofNat 32 bytes }

/-- `mux(t)` (46_selector.md R210). Only track 0 carries the PCR. -/
def mux (t : TrackId) (s : State) : Result State :=
  let k := (s.track t).framesWritten.toNat
  let i := s.nextFrame t
  let nb := s.batchSize t
  let sz := s.batchBytes t k nb
  let start := (s.extent t k).offset.toNat
  (packetize t ((s.track t).tbufBase.toNat + start) sz (s.effPts t i) (s.effDts t i) (sidOf t) (s.pidOf t)
      (decide (t = .video)) s).bind fun r =>
    .ok (r.1.setTrack t ((r.1.track t).consumed (k + nb) (start + sz)))

/-- How a pass ends, or a phase of it: with the state reached, in an error at a state whose cursors stand
(46_selector.md R214), or in a fault. -/
inductive Pass where
  | done (s : State)
  | failed (e : ErrCode) (s : State)
  | fault (f : Fault)
deriving DecidableEq, Repr

/-- A step of the pass taken at `s`: where it raises, the pass stops at `s`. -/
def Pass.ofResult (s : State) : Result State → Pass
  | .ok s' => .done s'
  | .err e => .failed e s
  | .fault f => .fault f

/-- The next phase of a pass. -/
def Pass.andThen (p : Pass) (k : State → Pass) : Pass :=
  match p with
  | .done s => k s
  | .failed e s => .failed e s
  | .fault f => .fault f

/-- Phase TABLES (46_selector.md R207): the PAT, then the PMT, both with `PSI_CC`. -/
def remuxTables (s : State) : Result State :=
  if s.outCap.toNat < 376 then .err .overflow
  else
    (s.store s.outBase.toNat (patPacket s s.psiCc.toNat)).bind fun s1 =>
    (s1.store (s.outBase.toNat + 188) (pmtPacket s s.psiCc.toNat)).bind fun s2 =>
      .ok { s2 with outWr := 376#32, outPkts := 2#32, psiCc := s.psiCc + 1#4 }

/-- Phase LEAD (46_selector.md R208): one frame of the lead track, if it has one. -/
def remuxLead (s : State) : Result State := if s.avail .video then mux .video s else .ok s

/-- Phase SELECT (46_selector.md R209 to R211): selections until no track has a frame left. The first
argument bounds the selections; the frames left when the phase starts bound it (R211). Where it runs out the
pass faults, which no run from reset does (DEDUCED, log 11). -/
def selectLoop : Nat → State → Pass
  | 0, s =>
    match s.select with
    | none => .done s
    | some _ => .fault .remuxNoProgress
  | fuel + 1, s =>
    match s.select with
    | none => .done s
    | some t => (Pass.ofResult s (mux t s)).andThen (selectLoop fuel)

/-- Frames of track `t` not yet consumed. -/
def State.framesLeft (s : State) (t : TrackId) : Nat := (s.track t).nFrames.toNat - s.nextFrame t

/-- Moves the sequencer (46_selector.md R215), inside one step only (DEDUCED, log 10). -/
def State.inPhase (s : State) (p : Phase) : State := { s with phase := p }

/-- The output zeroed: `OUT_WR`, `OUT_PKTS` and `OUT_VALID` (46_selector.md R213, R214). -/
def State.releaseOutput (s : State) : State := { s with outWr := 0#32, outPkts := 0#32, outValid := false }

/-- The phases of a pass that has passed its state gate (46_selector.md R213, R215). -/
def remuxPass (s : State) : Pass :=
  let s0 := s.releaseOutput.inPhase .tables
  (Pass.ofResult s0 (remuxTables s0)).andThen fun s1 =>
  let s1 := s1.inPhase .lead
  (Pass.ofResult s1 (remuxLead s1)).andThen fun s2 =>
  let s2 := s2.inPhase .select
  (selectLoop (s2.framesLeft .video + s2.framesLeft .audio) s2).andThen fun s3 =>
  .done (s3.inPhase .done)

/-- The state gate of `REMUX` (46_selector.md R213): a ready session, and a lead frame where a `REPEAT`
flag needs one. -/
def State.remuxGate (s : State) : Bool :=
  decide (s.session = .ready) &&
    !((s.video.repeatSeg || s.audio.repeatSeg) &&
      !decide (s.video.firstFrame.toNat < s.video.nFrames.toNat))

/-- The end of a pass that succeeds (46_selector.md R213, phase DONE). -/
def remuxDone (s : State) : Out State :=
  succeed (s.outWr.setWidth 64) (s.outPkts.setWidth 64)
    { s.inPhase .idle with outValid := true, bwValid := false }

/-- The end of a pass that fails at `s` (46_selector.md R214): the output is released, the session is
`FAILED`, the counters and cursors stand as they are in `s`; the code's bit of `ERRLOG` is set (10_state.md
R23; DEDUCED, log 19). -/
def remuxFailed (e : ErrCode) (s : State) : Out State :=
  raise e { s.releaseOutput.inPhase .idle with session := .failed, bwValid := false }

/-- `REMUX` (46_selector.md R213, R214). -/
def execRemux (s : State) : Out State :=
  if !s.remuxGate then raise .state s
  else
    match remuxPass s with
    | .done s' => remuxDone s'
    | .failed e s' => remuxFailed e s'
    | .fault f => .fault f

end Sys2Proof.Machine
end

