-- ==== Sys2Proof/Machine/Session.lean ====
section
/-! DEFINITION. The session and the track buffers (47_session.md): `INIT`, `APPEND`, `ACCEPT_V`,
`ACCEPT_A`, `RESET`, `TEARDOWN`. -/

namespace Sys2Proof.Machine

/-! ## INIT -/

/-- Every region has a length and lies in `M`, and no two share a byte (47_session.md R226). -/
def regionsUsable : List (Nat × Nat) → Bool
  | [] => true
  | r :: rs =>
    decide (r.2 ≠ 0) && inMemory r.1 r.2 && rs.all (fun q => !regionsOverlap r.1 r.2 q.1 q.2) &&
      regionsUsable rs

/-- A track at the start of a session (47_session.md R226). -/
def TrackState.opened (tr : TrackState) (rate channels : Word32) (inc : Word64) : TrackState :=
  { tr.emptied with rate := rate, channels := channels, tsInc := inc, tsNext := 0#64, cc := 0#4 }

/-- `INIT frame_rate, sample_rate, channel_count` (47_session.md R226). -/
def execInit (frameRate sampleRate channelCount : Word64) (s : State) : Out State :=
  if s.session ≠ .off then raise .state s
  else if !(fits32 frameRate && fits32 sampleRate && fits32 channelCount) then raise .range s
  else if frameRate = 0#64 ∨ sampleRate = 0#64 then raise .range s
  else if !regionsUsable s.sessionRegions then raise .alloc s
  else succeed 0#64 0#64
    { s with
      video := s.video.opened (low32 frameRate) 0#32 (fdiv (f64OfNat 1) (f64OfNat frameRate.toNat))
      audio := s.audio.opened (low32 sampleRate) (low32 channelCount)
        (fdiv (f64OfNat Config.aacSamples) (f64OfNat sampleRate.toNat))
      psiCc := 0#4, outWr := 0#32, outPkts := 0#32, outValid := false, session := .ready }

/-! ## Appending a frame -/

/-- A track with one more frame of `size` bytes (47_session.md R230). The key flag of track 1 is always 1. -/
def TrackState.withFrame (tr : TrackState) (t : TrackId) (size : Word32) (pts dts : Word64) (key : Bool) :
    TrackState :=
  let i := tr.nFrames.toNat
  let k := i - tr.firstFrame.toNat
  { tr with
    extents := putEntry (staleExtent t) tr.extents k { offset := tr.wrCur, size := size }
    infos := putEntry (staleInfo t) tr.infos i
      { pts := pts, dts := dts, key := key || decide (t = .audio) }
    wrCur := tr.wrCur + size
    nFrames := tr.nFrames + 1#32 }

/-- The checks of `append` after the state gate and the operand checks, and its copy (47_session.md R230):
`E_RANGE` for a timestamp that is not finite, `E_CAPACITY`, `E_OVERFLOW`. -/
def appendFrame (t : TrackId) (src size : Word64) (pts dts : Word64) (key : Bool) (s : State) :
    Result State :=
  let tr := s.track t
  if !(finite pts && finite dts) then .err .range
  else if tr.nFrames.toNat ≥ Config.maxFrames then .err .capacity
  else if tr.wrCur.toNat + size.toNat > tr.tbufCap.toNat then .err .overflow
  else
    (s.load src.toNat size.toNat).bind fun frame =>
    (s.store (tr.tbufBase.toNat + tr.wrCur.toNat) frame).bind fun s' =>
      .ok (s'.setTrack t (tr.withFrame t (low32 size) pts dts key))

/-- The source of an append overlaps its destination (20_memory.md R64, 93_implementation_defined.md U6,
log 6). -/
def appendOverlap (t : TrackId) (src size : Word64) (s : State) : Bool :=
  regionsOverlap src.toNat size.toNat ((s.track t).tbufBase.toNat + (s.track t).wrCur.toNat) size.toNat

/-- `append(t, src, size, pts, dts, key)` behind its gate (47_session.md R230); `finish` is what the
command still does to the state after the append. -/
def appendCommand (t : TrackId) (src size : Word64) (pts dts : Word64) (key : Bool)
    (finish : State → State) (s : State) : Out State :=
  conclude s (appendFrame t src size pts dts key s) fun s' =>
    if appendOverlap t src size s then .refused .regionOverlap
    else succeed ((s.track t).nFrames.setWidth 64) ((s'.track t).wrCur.setWidth 64) (finish s')

/-- `APPEND flags, src, size, pts, dts` (47_session.md R230). -/
def execAppend (track key : Bool) (src size pts dts : Word64) (s : State) : Out State :=
  if s.session ≠ .ready then raise .state s
  else if !regionOk src size then raise .range s
  else appendCommand (.ofBit track) src size pts dts key id s

/-- `TS_NEXT[t] <- fadd(TS_NEXT[t], TS_INC[t])` (47_session.md R236). -/
def State.advanceTime (s : State) (t : TrackId) : State :=
  s.setTrack t { s.track t with tsNext := fadd (s.track t).tsNext (s.track t).tsInc }

/-- What `ACCEPT_V` and `ACCEPT_A` share: a frame of track `t` with the derived timestamp
(47_session.md R234, R235). The encoder's status is tested before the timestamp (DEDUCED, log 18). -/
def acceptFrame (t : TrackId) (key : Bool) (src size encStatus : Word64) (s : State) : Out State :=
  if s.session ≠ .ready then raise .state s
  else if !regionOk src size then raise .range s
  else if encStatus ≠ 0#64 then raise .encode s
  else appendCommand t src size (s.track t).tsNext (s.track t).tsNext key (fun s' => s'.advanceTime t) s

/-- `ACCEPT_V flags, src, size, enc_status` (47_session.md R234). -/
def execAcceptV (key : Bool) (src size encStatus : Word64) (s : State) : Out State :=
  acceptFrame .video key src size encStatus s

/-- `ACCEPT_A src, size, enc_status` (47_session.md R235). -/
def execAcceptA (src size encStatus : Word64) (s : State) : Out State :=
  acceptFrame .audio true src size encStatus s

/-! ## RESET and TEARDOWN -/

/-- `RESET` (47_session.md R238). -/
def execReset (s : State) : Out State :=
  if s.session = .off then raise .state s
  else succeed 0#64 0#64
    { s with video := s.video.emptied, audio := s.audio.emptied, outWr := 0#32, outPkts := 0#32,
             outValid := false, session := .ready }

/-- A track after teardown (47_session.md R240). -/
def TrackState.closed (tr : TrackState) : TrackState :=
  { tr.emptied with cc := 0#4, tsNext := 0#64, tsInc := 0#64, rate := 0#32, channels := 0#32 }

/-- `TEARDOWN` (47_session.md R240). -/
def execTeardown (s : State) : Out State :=
  succeed 0#64 0#64
    { s with video := s.video.closed, audio := s.audio.closed, psiCc := 0#4, outWr := 0#32,
             outPkts := 0#32, outValid := false, errlog := 0#32, session := .off }

end Sys2Proof.Machine
end

