-- ==== Sys2Proof/Machine/Dispatch.lean ====
section
/-! DEFINITION. One arm for each command of the opcode table: its meaning (30_encoding.md R84). -/

namespace Sys2Proof.Machine

def exec (i : Instr) (s : State) : Host.Outcome State Fault Refusal :=
  match i with
  | .bwInit base bound => Sys2Proof.Machine.execBwInit base bound s
  | .putBits width value => Sys2Proof.Machine.execPutBits width value s
  | .putBits64 width value => Sys2Proof.Machine.execPutBits64 width value s
  | .bwFlush => Sys2Proof.Machine.execBwFlush s
  | .bwCount => Sys2Proof.Machine.execBwCount s
  | .wrreg reg value => Sys2Proof.Machine.execWrreg reg value s
  | .rdreg reg => Sys2Proof.Machine.execRdreg reg s
  | .crc32 seed addr len => Sys2Proof.Machine.execCrc32 seed addr len s
  | .tsHdr pusi needPcr disc dst cc pid pcrTime payloadSize => Sys2Proof.Machine.execTsHdr pusi needPcr disc dst cc pid pcrTime payloadSize s
  | .pesHdr streamId dst bound payloadSize pts dts => Sys2Proof.Machine.execPesHdr streamId dst bound payloadSize pts dts s
  | .pack pcr track src size pts dts streamId pid => Sys2Proof.Machine.execPack pcr track src size pts dts streamId pid s
  | .pat dst counter => Sys2Proof.Machine.execPat dst counter s
  | .pmt dst counter => Sys2Proof.Machine.execPmt dst counter s
  | .remux => Sys2Proof.Machine.execRemux s
  | .init frameRate sampleRate channelCount => Sys2Proof.Machine.execInit frameRate sampleRate channelCount s
  | .append track key src size pts dts => Sys2Proof.Machine.execAppend track key src size pts dts s
  | .acceptV key src size encStatus => Sys2Proof.Machine.execAcceptV key src size encStatus s
  | .acceptA src size encStatus => Sys2Proof.Machine.execAcceptA src size encStatus s
  | .reset => Sys2Proof.Machine.execReset s
  | .teardown => Sys2Proof.Machine.execTeardown s

end Sys2Proof.Machine
end

