-- ==== Sys2Proof/Decode.lean ====
section
/-! DEFINITION. The decoder of the command port (30_encoding.md R80 to R86, 10_state.md R24), total and
rejecting by name, and after it the encoder written from the same tables. -/

namespace Sys2Proof

/-- Why a header word is illegal (30_encoding.md R85). Each ends the command with `E_ILLEGAL`. -/
inductive IllegalHeader where
  /-- `RSV != 0` -/
  | reservedBits
  /-- `OPC` is none of the twenty values of R84 -/
  | unknownOpcode
  /-- a bit of `F` the command's row does not use is 1 -/
  | unusedFlag
  /-- `F` is a reserved register index -/
  | reservedIndex
  /-- `F` of `WRREG` is a read-only register -/
  | readOnlyIndex
deriving DecidableEq, Repr

/-- A legal header: the command and what its `F` field carries, before any operand word is read. -/
inductive Header where
  | bwInit | putBits (width : BitVec 8) | putBits64 (width : BitVec 8) | bwFlush | bwCount
  | wrreg (reg : Reg) | rdreg (reg : Reg) | crc32
  | tsHdr (pusi needPcr disc : Bool) | pesHdr (streamId : BitVec 8) | pack (pcr track : Bool)
  | pat | pmt | remux | init | append (track key : Bool) | acceptV (key : Bool) | acceptA
  | reset | teardown
deriving DecidableEq, Repr

/-- What stands at the front of the command port. -/
inductive Fetch where
  /-- no word has arrived -/
  | idle
  /-- a legal header whose operand words have not all arrived -/
  | waiting
  /-- the front word is an operand where a header is due, or a header stands where an operand is due:
  the host has not kept the port in step (93_implementation_defined.md U9) -/
  | outOfStep
  /-- an illegal header, and the words after it; none of them has been read -/
  | illegal (why : IllegalHeader) (rest : List PortWord)
  /-- a whole packet, and the words after it -/
  | command (i : Instr) (rest : List PortWord)
deriving DecidableEq, Repr

/-! ## Register indices -/

/-- The index of a global register (10_state.md R24). -/
def GlobalReg.index : GlobalReg → BitVec 8
  | .status => 0x00#8
  | .errlog => 0x01#8
  | .res0 => 0x02#8
  | .res1 => 0x03#8
  | .pmtPid => 0x04#8
  | .tsid => 0x05#8
  | .bias => 0x06#8
  | .audioBatch => 0x07#8
  | .psiCc => 0x08#8
  | .outBase => 0x09#8
  | .outCap => 0x0A#8
  | .outWr => 0x0B#8
  | .outPkts => 0x0C#8
  | .bwBase => 0x10#8
  | .bwBound => 0x11#8
  | .bwBitcnt => 0x12#8
  | .bwPtr => 0x13#8
  | .bwAcc => 0x14#8
  | .bwAccn => 0x15#8

/-- The offset of a track register inside its track's block (10_state.md R24). -/
def TrackReg.offset : TrackReg → BitVec 8
  | .codec => 0x0#8
  | .nFrames => 0x1#8
  | .framesWritten => 0x2#8
  | .firstFrame => 0x3#8
  | .cc => 0x4#8
  | .tbufBase => 0x5#8
  | .tbufCap => 0x6#8
  | .wrCur => 0x7#8
  | .rdCur => 0x8#8
  | .repeatSeg => 0x9#8
  | .hasDts => 0xA#8
  | .tsNext => 0xB#8
  | .tsInc => 0xC#8
  | .rate => 0xD#8
  | .channels => 0xE#8

/-- The index of a register: track registers stand at `0x20 + 0x10*t + k` (10_state.md R24). -/
def Reg.index : Reg → BitVec 8
  | .global r => r.index
  | .track .video r => 0x20#8 + r.offset
  | .track .audio r => 0x30#8 + r.offset

/-- Every global register, in index order. -/
def GlobalReg.all : List GlobalReg :=
  [.status, .errlog, .res0, .res1, .pmtPid, .tsid, .bias, .audioBatch, .psiCc, .outBase, .outCap,
   .outWr, .outPkts, .bwBase, .bwBound, .bwBitcnt, .bwPtr, .bwAcc, .bwAccn]

/-- Every track register, in index order. -/
def TrackReg.all : List TrackReg :=
  [.codec, .nFrames, .framesWritten, .firstFrame, .cc, .tbufBase, .tbufCap, .wrCur, .rdCur,
   .repeatSeg, .hasDts, .tsNext, .tsInc, .rate, .channels]

/-- Every register of the register file. -/
def Reg.all : List Reg :=
  GlobalReg.all.map .global ++ TrackReg.all.map (.track .video) ++ TrackReg.all.map (.track .audio)

/-- The register at an index; none for a reserved index (10_state.md R24). -/
def Reg.ofIndex (idx : BitVec 8) : Option Reg :=
  Reg.all.find? (fun r => r.index == idx)

/-! ## Header fields (R81) -/

/-- `OPC`, bits 7:0. -/
def headerOpc (h : Word32) : BitVec 8 := h.extractLsb' 0 8

/-- `F`, bits 15:8. -/
def headerF (h : Word32) : BitVec 8 := h.extractLsb' 8 8

/-- `RSV`, bits 31:16. -/
def headerRsv (h : Word32) : BitVec 16 := h.extractLsb' 16 16

/-- A row whose `F` may use only the bits of `used`. -/
def withFlags (f used : BitVec 8) (hd : Header) : Except IllegalHeader Header :=
  if f &&& ~~~used = 0#8 then .ok hd else .error .unusedFlag

/-- `RDREG`'s index test. -/
def readableHeader (f : BitVec 8) : Except IllegalHeader Header :=
  match Reg.ofIndex f with
  | none => .error .reservedIndex
  | some r => .ok (.rdreg r)

/-- `WRREG`'s index test. -/
def writableHeader (f : BitVec 8) : Except IllegalHeader Header :=
  match Reg.ofIndex f with
  | none => .error .reservedIndex
  | some r => if r.access = .ro then .error .readOnlyIndex else .ok (.wrreg r)

/-- The opcode map (30_encoding.md R84) over `OPC` and `F`. -/
def decodeOpcode (opc f : BitVec 8) : Except IllegalHeader Header :=
  if opc = 0x01#8 then withFlags f 0x00#8 .bwInit
  else if opc = 0x02#8 then .ok (.putBits f)
  else if opc = 0x03#8 then .ok (.putBits64 f)
  else if opc = 0x04#8 then withFlags f 0x00#8 .bwFlush
  else if opc = 0x05#8 then withFlags f 0x00#8 .bwCount
  else if opc = 0x06#8 then writableHeader f
  else if opc = 0x07#8 then readableHeader f
  else if opc = 0x08#8 then withFlags f 0x00#8 .crc32
  else if opc = 0x10#8 then
    withFlags f 0x07#8 (.tsHdr (f.getLsbD 0) (f.getLsbD 1) (f.getLsbD 2))
  else if opc = 0x11#8 then .ok (.pesHdr f)
  else if opc = 0x12#8 then withFlags f 0x03#8 (.pack (f.getLsbD 0) (f.getLsbD 1))
  else if opc = 0x18#8 then withFlags f 0x00#8 .pat
  else if opc = 0x19#8 then withFlags f 0x00#8 .pmt
  else if opc = 0x20#8 then withFlags f 0x00#8 .remux
  else if opc = 0x30#8 then withFlags f 0x00#8 .init
  else if opc = 0x31#8 then withFlags f 0x03#8 (.append (f.getLsbD 0) (f.getLsbD 1))
  else if opc = 0x32#8 then withFlags f 0x02#8 (.acceptV (f.getLsbD 1))
  else if opc = 0x33#8 then withFlags f 0x00#8 .acceptA
  else if opc = 0x34#8 then withFlags f 0x00#8 .reset
  else if opc = 0x35#8 then withFlags f 0x00#8 .teardown
  else .error .unknownOpcode

/-- Header decoding (30_encoding.md R85): decided from the header alone. -/
def decodeHeader (h : Word32) : Except IllegalHeader Header :=
  if headerRsv h ≠ 0#16 then .error .reservedBits
  else decodeOpcode (headerOpc h) (headerF h)

/-- The number of operand words of a legal header (30_encoding.md R86). -/
def Header.operandCount : Header → Nat
  | .bwFlush => 0
  | .bwCount => 0
  | .rdreg _ => 0
  | .remux => 0
  | .reset => 0
  | .teardown => 0
  | .putBits _ => 1
  | .putBits64 _ => 1
  | .wrreg _ => 1
  | .bwInit => 2
  | .pat => 2
  | .pmt => 2
  | .crc32 => 3
  | .init => 3
  | .acceptV _ => 3
  | .acceptA => 3
  | .append _ _ => 4
  | .tsHdr _ _ _ => 5
  | .pesHdr _ => 5
  | .pack _ _ => 6

/-- The command of a header and its operand words `w 0 = W1`, `w 1 = W2`, … in packet order (R84). -/
def Header.instr (hd : Header) (ws : List Word64) : Instr :=
  let w (j : Nat) : Word64 := ws.getD j 0#64
  match hd with
  | .bwInit => .bwInit (w 0) (w 1)
  | .putBits width => .putBits width (w 0)
  | .putBits64 width => .putBits64 width (w 0)
  | .bwFlush => .bwFlush
  | .bwCount => .bwCount
  | .wrreg reg => .wrreg reg (w 0)
  | .rdreg reg => .rdreg reg
  | .crc32 => .crc32 (w 0) (w 1) (w 2)
  | .tsHdr pusi needPcr disc => .tsHdr pusi needPcr disc (w 0) (w 1) (w 2) (w 3) (w 4)
  | .pesHdr sid => .pesHdr sid (w 0) (w 1) (w 2) (w 3) (w 4)
  | .pack pcr track => .pack pcr track (w 0) (w 1) (w 2) (w 3) (w 4) (w 5)
  | .pat => .pat (w 0) (w 1)
  | .pmt => .pmt (w 0) (w 1)
  | .remux => .remux
  | .init => .init (w 0) (w 1) (w 2)
  | .append track key => .append track key (w 0) (w 1) (w 2) (w 3)
  | .acceptV key => .acceptV key (w 0) (w 1) (w 2)
  | .acceptA => .acceptA (w 0) (w 1) (w 2)
  | .reset => .reset
  | .teardown => .teardown

/-- Takes `n` operand words after a legal header and builds the command; `got` holds those already
taken, in packet order. -/
def decodeOperands (hd : Header) (got : List Word64) : Nat → List PortWord → Fetch
  | 0, rest => .command (hd.instr got) rest
  | _ + 1, [] => .waiting
  | _ + 1, .header _ :: _ => .outOfStep
  | n + 1, .operand w :: rest => decodeOperands hd (got ++ [w]) n rest

/-- The decoder (30_encoding.md R82): reads the header, looks up `n`, takes the next `n` words. An
illegal header is taken alone and no operand word is read (R85). -/
def decode : List PortWord → Fetch
  | [] => .idle
  | .operand _ :: _ => .outOfStep
  | .header h :: rest =>
    match decodeHeader h with
    | .error why => .illegal why rest
    | .ok hd => decodeOperands hd [] hd.operandCount rest

/-! ## The encoder -/

/-- The header word of an opcode and an `F` field, `RSV = 0` (30_encoding.md R81). -/
def headerWord (opc f : BitVec 8) : Word32 := 0#16 ++ f ++ opc

/-- An `F` field with the given bits 0, 1 and 2. -/
def flagBits (b0 b1 b2 : Bool) : BitVec 8 :=
  0#5 ++ BitVec.ofBool b2 ++ BitVec.ofBool b1 ++ BitVec.ofBool b0

/-- `OPC` of a command (30_encoding.md R84). -/
def Instr.opcode : Instr → BitVec 8
  | .bwInit _ _ => 0x01#8
  | .putBits _ _ => 0x02#8
  | .putBits64 _ _ => 0x03#8
  | .bwFlush => 0x04#8
  | .bwCount => 0x05#8
  | .wrreg _ _ => 0x06#8
  | .rdreg _ => 0x07#8
  | .crc32 _ _ _ => 0x08#8
  | .tsHdr _ _ _ _ _ _ _ _ => 0x10#8
  | .pesHdr _ _ _ _ _ _ => 0x11#8
  | .pack _ _ _ _ _ _ _ _ => 0x12#8
  | .pat _ _ => 0x18#8
  | .pmt _ _ => 0x19#8
  | .remux => 0x20#8
  | .init _ _ _ => 0x30#8
  | .append _ _ _ _ _ _ => 0x31#8
  | .acceptV _ _ _ _ => 0x32#8
  | .acceptA _ _ _ => 0x33#8
  | .reset => 0x34#8
  | .teardown => 0x35#8

/-- `F` of a command (30_encoding.md R84). -/
def Instr.fField : Instr → BitVec 8
  | .putBits width _ => width
  | .putBits64 width _ => width
  | .wrreg reg _ => reg.index
  | .rdreg reg => reg.index
  | .tsHdr pusi needPcr disc _ _ _ _ _ => flagBits pusi needPcr disc
  | .pesHdr sid _ _ _ _ _ => sid
  | .pack pcr track _ _ _ _ _ _ => flagBits pcr track false
  | .append track key _ _ _ _ => flagBits track key false
  | .acceptV key _ _ _ => flagBits false key false
  | .bwInit _ _ => 0x00#8
  | .bwFlush => 0x00#8
  | .bwCount => 0x00#8
  | .crc32 _ _ _ => 0x00#8
  | .pat _ _ => 0x00#8
  | .pmt _ _ => 0x00#8
  | .remux => 0x00#8
  | .init _ _ _ => 0x00#8
  | .acceptA _ _ _ => 0x00#8
  | .reset => 0x00#8
  | .teardown => 0x00#8

/-- The operand words of a command in packet order. -/
def Instr.operands : Instr → List Word64
  | .bwInit base bound => [base, bound]
  | .putBits _ value => [value]
  | .putBits64 _ value => [value]
  | .bwFlush => []
  | .bwCount => []
  | .wrreg _ value => [value]
  | .rdreg _ => []
  | .crc32 seed addr len => [seed, addr, len]
  | .tsHdr _ _ _ dst cc pid pcrTime payloadSize => [dst, cc, pid, pcrTime, payloadSize]
  | .pesHdr _ dst bound payloadSize pts dts => [dst, bound, payloadSize, pts, dts]
  | .pack _ _ src size pts dts streamId pid => [src, size, pts, dts, streamId, pid]
  | .pat dst counter => [dst, counter]
  | .pmt dst counter => [dst, counter]
  | .remux => []
  | .init frameRate sampleRate channelCount => [frameRate, sampleRate, channelCount]
  | .append _ _ src size pts dts => [src, size, pts, dts]
  | .acceptV _ src size encStatus => [src, size, encStatus]
  | .acceptA src size encStatus => [src, size, encStatus]
  | .reset => []
  | .teardown => []

/-- The packet of a command: header first, then the operand words (30_encoding.md R80). -/
def encode (i : Instr) : List PortWord :=
  .header (headerWord i.opcode i.fField) :: i.operands.map .operand

/-! ## The host's numbered words -/

/-- The `n` operand words whose bits start at bit `start` of `w`, first word lowest. -/
def operandWords (w : Nat) : Nat → Nat → List PortWord
  | _, 0 => []
  | start, n + 1 => .operand (BitVec.ofNat 64 (w >>> start)) :: operandWords w (start + 64) n

/-- The packet whose bits are `w`, of which the lowest `nbits` count and all others are 0: the header is
bits 31..0, `W1` bits 95..32, and so on. It has as many operand words as its header's format asks for,
none after an illegal header. -/
def packetOfBits (nbits w : Nat) : List PortWord :=
  let v := w % 2 ^ nbits
  let h : Word32 := BitVec.ofNat 32 v
  let n := match decodeHeader h with
    | .error _ => 0
    | .ok hd => hd.operandCount
  .header h :: operandWords v 32 n

/-- The command the decoder reads from a packet whose bits are `w`; none where it rejects it. -/
def decodeTableWord (nbits w : Nat) : Option Instr :=
  match decode (packetOfBits nbits w) with
  | .command i _ => some i
  | .idle => none
  | .waiting => none
  | .outOfStep => none
  | .illegal _ _ => none

end Sys2Proof
end

