-- ==== Sys2Proof/Machine/HostPort.lean ====
section
/-! DEFINITION. The command port as the block sees it, and what the host may do between commands
(00_scope.md R3, 20_memory.md R66, 10_state.md R42, R46). The host's own actions are operations on the
state and no part of the step (log 12). -/

namespace Sys2Proof.Machine

/-- What stands at the command port: the block takes a packet when it is idle (30_encoding.md R80). -/
def State.fetch (s : State) : Fetch := decode s.port

/-- The port after the block has taken what it fetched. -/
def State.setPort (s : State) (rest : List PortWord) : State := { s with port := rest }

/-- The effect of an illegal header (30_encoding.md R85): `E_ILLEGAL`, and the next word the block sees is
a header. -/
def illegalHeader (rest : List PortWord) (s : State) : Out State := raise .illegal (s.setPort rest)

/-- The host sends words; they wait behind those already sent. -/
def State.send (s : State) (ws : List PortWord) : State := s.setPort (s.port ++ ws)

/-- The host sends the packet of a command. -/
def State.sendCommand (s : State) (i : Instr) : State := s.send (encode i)

/-- The host writes bytes of `M` (20_memory.md R66). -/
def State.hostWrite (s : State) (a : Nat) (bs : List Byte) : Result State := s.store a bs

/-- The host reads bytes of `M` (20_memory.md R66). -/
def State.hostRead (s : State) (a n : Nat) : Result (List Byte) := s.load a n

/-- How many bytes of the output region, from `OUT_BASE` on, the host owns: `OUT_WR` of them while a finished
stream stands there, otherwise none (70_reset_and_hazards.md R285). -/
def State.hostOwned (s : State) : Nat := if s.outValid then s.outWr.toNat else 0

/-- The host keeps the ownership rule when it writes `[a, a + n)` (10_state.md R42): while a session exists it
stays off both track buffers and off the bytes of the output region that it does not own
(70_reset_and_hazards.md R285). The hardware does not enforce it (R284). -/
def State.hostMayWrite (s : State) (a n : Nat) : Bool :=
  decide (s.session = .off) ||
    !(regionsOverlap a n s.video.tbufBase.toNat s.video.tbufCap.toNat ||
      regionsOverlap a n s.audio.tbufBase.toNat s.audio.tbufCap.toNat ||
      regionsOverlap a n (s.outBase.toNat + s.hostOwned) (s.outCap.toNat - s.hostOwned))

/-- The stream handed to the host: the bytes it owns, so nothing of it unless the last pass succeeded and the
stream still stands (70_reset_and_hazards.md R285). -/
def State.outputStream (s : State) : Result (List Byte) := s.load s.outBase.toNat s.hostOwned

/-- Hardware reset (10_state.md R46, 70_reset_and_hazards.md R275). The contents of `M` after it are
unspecified, so they are an argument (93_implementation_defined.md U7). -/
def State.hardwareReset (contents : Memory) : State := { State.reset with mem := contents }

end Sys2Proof.Machine
end

