-- ==== Sys2Proof/Machine/Step.lean ====
section
/-! DEFINITION. One step of the block: one command, from the port to its end (70_reset_and_hazards.md
R292); no time passes (log 13). -/

namespace Sys2Proof.Machine

/-- One step. With no whole packet at the port the block is idle and keeps all state (60_exceptions.md R274,
log 2); an illegal header is one failed command (30_encoding.md R85); a port out of step with the host is
refused (93_implementation_defined.md U9, log 3). -/
def step (s : State) : Host.Outcome State Fault Refusal :=
  match s.fetch with
  | .idle => .next s
  | .waiting => .next s
  | .outOfStep => .refused .portOutOfStep
  | .illegal _ rest => illegalHeader rest s
  | .command i rest => exec i (s.setPort rest)

/-- `s` with the packet whose bits are `w` (the lowest `nbits` count, all others are 0) at the front of the
command port, so that `step` takes it next. The operand words are as many as the header asks for (log 1). -/
def State.withFetchWord (s : State) (nbits w : Nat) : State :=
  s.setPort (packetOfBits nbits w ++ s.port)

end Sys2Proof.Machine
end

