-- ==== Sys2Proof/Safety.lean ====
section
/-! DEFINITION. What claims call a good state and a safe run: the invariants the spec gives the block
between commands (10_state.md R25, R33, R34, R37, R39, R42; 46_selector.md R215). -/

namespace Sys2Proof.Machine

/-- The invariants of an initialised bit writer (10_state.md R34) and the range check of `BW_INIT`
(40_bitwriter.md R102). -/
structure BitWriter.Ok (b : BitWriter) : Prop where
  count : b.bitcnt.toNat = 8 * b.ptr.toNat + b.accn.toNat
  pending : b.acc.toNat < 2 ^ b.accn.toNat
  bounded : b.bitcnt.toNat ≤ 8 * b.bound.toNat
  short : b.accn.toNat ≤ 31
  region : b.base.toNat + b.bound.toNat ≤ Config.memSize

/-- Data frames follow one another without a gap from byte `start` to byte `stop` (10_state.md R39). -/
def contiguous (start stop : Nat) : List FrameExtent → Bool
  | [] => decide (start = stop)
  | e :: es => decide (e.offset.toNat = start) && contiguous (start + e.size.toNat) stop es

/-- The invariants of one track (10_state.md R36 to R39). -/
structure TrackState.Ok (tr : TrackState) : Prop where
  first : tr.firstFrame = 0#32
  infosHeld : tr.infos.length = tr.nFrames.toNat
  extentsHeld : tr.extents.length = tr.nFrames.toNat
  ceiling : tr.nFrames.toNat ≤ Config.maxFrames
  consumed : tr.framesWritten.toNat ≤ tr.nFrames.toNat
  noGap : contiguous 0 tr.wrCur.toNat tr.extents = true
  fits : tr.wrCur.toNat ≤ tr.tbufCap.toNat
  readBehind : tr.rdCur.toNat ≤ tr.wrCur.toNat
  finiteTimes : ∀ f ∈ tr.infos, finite f.pts = true ∧ finite f.dts = true

/-- Every configuration register holds a value of its legal set (10_state.md R25). -/
structure State.ConfigOk (s : State) : Prop where
  pmtPid : 1 ≤ s.pmtPid.toNat ∧ s.pmtPid.toNat ≤ 0x1FFD
  audioBatch : 1 ≤ s.audioBatch.toNat ∧ s.audioBatch.toNat ≤ 1000
  bias : finite s.bias = true

/-- The invariant of the whole block between commands. -/
structure State.Ok (s : State) : Prop where
  mem : s.mem.wf = true
  phase : s.phase = .idle
  config : s.ConfigOk
  writer : s.bwValid = true → s.bw.Ok
  video : s.video.Ok
  audio : s.audio.Ok
  outSize : s.outWr.toNat = 188 * s.outPkts.toNat
  outFits : s.outWr.toNat ≤ s.outCap.toNat
  regions : s.session ≠ .off → regionsUsable s.sessionRegions = true
  offEmpty : s.session = .off → s.video.wrCur = 0#32 ∧ s.audio.wrCur = 0#32 ∧ s.outWr = 0#32

/-- The outcome is no fault. -/
def noFault (o : Out State) : Prop :=
  match o with
  | .next _ => True
  | .fault _ => False
  | .refused _ => True

/-- A safe run of `n` steps from `s` never faults. -/
def safeRun (n : Nat) (s : State) : Prop := noFault (Sys2Proof.core.run n s)

/-! ## The bytes of `M` that a command stores -/

/-- `m'` is `m` with the byte string `bs` at the addresses from `a` on, every other byte of `M` as before
(20_memory.md R67, R68). -/
def Memory.Stored (m m' : Memory) (a : Nat) (bs : List Byte) : Prop :=
  ∀ x, m'.read x = if a ≤ x ∧ x < a + bs.length then bs.getD (x - a) 0#8 else m.read x

/-- Every byte of `M` outside `[a, a + n)` is as before. -/
def Memory.SameOutside (m m' : Memory) (a n : Nat) : Prop :=
  ∀ x, x < a ∨ a + n ≤ x → m'.read x = m.read x

/-- The length of the PES header built with these timestamps (43_pes_header.md R151, R155); 0 where a
conversion is undefined, and then nothing is built. -/
def State.pesBytes (s : State) (pts dts : Word64) : Nat :=
  match ticks90 s.bias pts, ticks90 s.bias dts with
  | some p, some d => if 10 < (p - d).natAbs then 19 else 14
  | _, _ => 0

/-- The bytes a pass has written to the output region where it ends: `OUT_WR` there (10_state.md R33). -/
def Pass.written : Pass → Nat
  | .done s => s.outWr.toNat
  | .failed _ s => s.outWr.toNat
  | .fault _ => 0

/-- The bytes a command stores to when it raises no error, and `REMUX` also when it does, as base and length,
computed from its operands and the state before it (20_memory.md R61). -/
def footprint (s : State) : Instr → Nat × Nat
  | .putBits width _ =>
    (s.bw.base.toNat + s.bw.ptr.toNat, 4 * ((s.bw.accn.toNat + width.toNat) / 32))
  | .putBits64 width _ =>
    (s.bw.base.toNat + s.bw.ptr.toNat, 4 * ((s.bw.accn.toNat + width.toNat) / 32))
  | .bwFlush => (s.bw.base.toNat + s.bw.ptr.toNat, s.bw.pendingBytes)
  | .tsHdr _ needPcr disc dst _ _ _ payloadSize =>
    (dst.toNat, tsHeaderLength needPcr disc payloadSize.toNat)
  | .pesHdr _ dst _ _ pts dts => (dst.toNat, s.pesBytes pts dts)
  | .pat dst _ => (dst.toNat, 188)
  | .pmt dst _ => (dst.toNat, 188)
  | .pack pcr _ _ size pts dts _ _ =>
    (s.outBase.toNat + s.outWr.toNat, 188 * packetCount (s.pesBytes pts dts + size.toNat) pcr)
  | .remux => (s.outBase.toNat, if s.remuxGate then (remuxPass s).written else 0)
  | .append track _ _ size _ _ =>
    ((s.track (.ofBit track)).tbufBase.toNat + (s.track (.ofBit track)).wrCur.toNat, size.toNat)
  | .acceptV _ _ size _ => (s.video.tbufBase.toNat + s.video.wrCur.toNat, size.toNat)
  | .acceptA _ size _ => (s.audio.tbufBase.toNat + s.audio.wrCur.toNat, size.toNat)
  | .bwInit _ _ => (0, 0)
  | .bwCount => (0, 0)
  | .wrreg _ _ => (0, 0)
  | .rdreg _ => (0, 0)
  | .crc32 _ _ _ => (0, 0)
  | .init _ _ _ => (0, 0)
  | .reset => (0, 0)
  | .teardown => (0, 0)

/-! ## The header words and the register file -/

/-- The twenty opcodes (30_encoding.md R84). -/
def opcodes : List Nat :=
  [0x01, 0x02, 0x03, 0x04, 0x05, 0x06, 0x07, 0x08, 0x10, 0x11, 0x12, 0x18, 0x19, 0x20, 0x30, 0x31, 0x32,
   0x33, 0x34, 0x35]

/-- The reserved register indices (10_state.md R24). -/
def reservedIndex (f : Nat) : Prop :=
  (0x0D ≤ f ∧ f ≤ 0x0F) ∨ (0x16 ≤ f ∧ f ≤ 0x1F) ∨ f = 0x2F ∨ f = 0x3F ∨ 0x40 ≤ f

/-- The read-only register indices (10_state.md R24). -/
def readOnlyIndices : List Nat :=
  [0x00, 0x01, 0x02, 0x03, 0x0B, 0x0C, 0x10, 0x11, 0x12, 0x13, 0x14, 0x15,
   0x21, 0x22, 0x23, 0x27, 0x28, 0x2B, 0x2C, 0x2D, 0x2E,
   0x31, 0x32, 0x33, 0x37, 0x38, 0x3B, 0x3C, 0x3D, 0x3E]

/-- A header word is illegal (30_encoding.md R85), in the rule's own terms: `OPC = h mod 256`,
`F = h / 256 mod 256`, `RSV = h / 65536`. -/
def illegalWord (h : Word32) : Prop :=
  let opc := h.toNat % 256
  let f := h.toNat / 256 % 256
  opc ∉ opcodes ∨ h.toNat / 65536 ≠ 0 ∨
    (opc ∈ [0x01, 0x04, 0x05, 0x08, 0x18, 0x19, 0x20, 0x30, 0x33, 0x34, 0x35] ∧ f ≠ 0) ∨
    (opc = 0x10 ∧ f / 8 ≠ 0) ∨ (opc ∈ [0x12, 0x31] ∧ f / 4 ≠ 0) ∨
    (opc = 0x32 ∧ (f / 4 ≠ 0 ∨ f % 2 ≠ 0)) ∨
    (opc ∈ [0x06, 0x07] ∧ reservedIndex f) ∨ (opc = 0x06 ∧ f ∈ readOnlyIndices)

/-- The width column of 10_state.md R24. -/
def regWidth : Reg → Nat
  | .global .status => 32
  | .global .errlog => 32
  | .global .res0 => 64
  | .global .res1 => 64
  | .global .pmtPid => 13
  | .global .tsid => 16
  | .global .bias => 64
  | .global .audioBatch => 32
  | .global .psiCc => 4
  | .global .outBase => 32
  | .global .outCap => 32
  | .global .outWr => 32
  | .global .outPkts => 32
  | .global .bwBase => 32
  | .global .bwBound => 32
  | .global .bwBitcnt => 64
  | .global .bwPtr => 32
  | .global .bwAcc => 32
  | .global .bwAccn => 6
  | .track _ .codec => 8
  | .track _ .nFrames => 32
  | .track _ .framesWritten => 32
  | .track _ .firstFrame => 32
  | .track _ .cc => 4
  | .track _ .tbufBase => 32
  | .track _ .tbufCap => 32
  | .track _ .wrCur => 32
  | .track _ .rdCur => 32
  | .track _ .repeatSeg => 1
  | .track _ .hasDts => 1
  | .track _ .tsNext => 64
  | .track _ .tsInc => 64
  | .track _ .rate => 32
  | .track _ .channels => 32

/-! ## The bit string a writer has built -/

/-- A byte string as one number, first byte most significant (20_memory.md R65). -/
def bytesValue (bs : List Byte) : Nat := bs.foldl (fun v b => v * 256 + b.toNat) 0

/-- The bit string appended since `BW_INIT`, as one number: the bytes committed to `M`, then the pending bits
(40_bitwriter.md R100, R109). -/
def State.bitString (s : State) : Nat :=
  bytesValue (s.mem.readBytes s.bw.base.toNat s.bw.ptr.toNat) * 2 ^ s.bw.accn.toNat + s.bw.acc.toNat

/-! ## Reading a packet as a receiver does (42_ts_header.md R131, R134) -/

/-- `PID` of a packet. -/
def packetPid (p : List Byte) : Nat := (p.getD 1 0#8).toNat % 32 * 256 + (p.getD 2 0#8).toNat

/-- `payload_unit_start_indicator` of a packet. -/
def packetStart (p : List Byte) : Bool := (p.getD 1 0#8).getLsbD 6

/-- `adaptation_field_control` of a packet. -/
def packetAfc (p : List Byte) : Nat := (p.getD 3 0#8).toNat / 16 % 4

/-- `continuity_counter` of a packet. -/
def packetCc (p : List Byte) : Nat := (p.getD 3 0#8).toNat % 16

/-- The payload of a packet: what follows the four header bytes and, where there is one, the adaptation field
of the length that its first byte states. -/
def packetPayload (p : List Byte) : List Byte :=
  if packetAfc p = 1 then p.drop 4 else p.drop (5 + (p.getD 4 0#8).toNat)

/-! ## Numbers -/

/-- One bit of the division of 41_crc32.md R123 with the register preset: the bit that leaves the register and
the message bit decide whether the polynomial is taken off. -/
def crcBit (c : Word32) (b : Bool) : Word32 :=
  if c.getLsbD 31 ^^ b then (c <<< 1) ^^^ 0x04C11DB7#32 else c <<< 1

/-- The bits of a byte, most significant first. -/
def byteBits (b : Byte) : List Bool := [7, 6, 5, 4, 3, 2, 1, 0].map b.getLsbD

/-- `r` is a binary64 number nearest to `num / den` units of 2^-1074 among the finite ones, the one with an
even fraction where two are equally near (00_scope.md R12). -/
def nearestTo (r : Word64) (num den : Int) : Prop :=
  ∀ x : Word64, finite x = true →
    (f64Int r * den - num).natAbs ≤ (f64Int x * den - num).natAbs ∧
      ((f64Int r * den - num).natAbs = (f64Int x * den - num).natAbs → f64Int x ≠ f64Int r →
        f64Frac r % 2 = 0)

/-! ## Gates and sizes -/

/-- The state gate (60_exceptions.md R256): the command is not accepted in the state. -/
def gateCloses (s : State) : Instr → Prop
  | .putBits _ _ => s.bwValid = false
  | .putBits64 _ _ => s.bwValid = false
  | .bwFlush => s.bwValid = false
  | .bwCount => s.bwValid = false
  | .wrreg reg _ => reg.access = .rwOff ∧ s.session ≠ .off
  | .init _ _ _ => s.session ≠ .off
  | .append _ _ _ _ _ _ => s.session ≠ .ready
  | .acceptV _ _ _ _ => s.session ≠ .ready
  | .acceptA _ _ _ => s.session ≠ .ready
  | .pack _ _ _ _ _ _ _ _ => s.session ≠ .ready
  | .remux => s.session ≠ .ready ∨
      ((s.video.repeatSeg = true ∨ s.audio.repeatSeg = true) ∧ s.video.nFrames = 0#32)
  | .reset => s.session = .off
  | .bwInit _ _ => False
  | .rdreg _ => False
  | .crc32 _ _ _ => False
  | .tsHdr _ _ _ _ _ _ _ _ => False
  | .pesHdr _ _ _ _ _ _ => False
  | .pat _ _ => False
  | .pmt _ _ => False
  | .teardown => False

/-- Packets that suffice for a PES packet of `size` payload bytes (70_reset_and_hazards.md R277). -/
def packetBound (size : Nat) : Nat := (size + 27 + 183) / 184 + 1

/-- Packets that suffice for the frames of track `t` not yet consumed, each in a PES packet of its own. -/
def State.packetsLeft (s : State) (t : TrackId) : Nat :=
  (((s.track t).extents.drop (s.track t).framesWritten.toNat).map
    (fun e => packetBound e.size.toNat)).sum

/-- Every tick conversion that a pass over track `t` makes is inside its domain (60_exceptions.md R258). -/
def State.ticksDefined (s : State) (t : TrackId) : Prop :=
  ∀ i, i < (s.track t).nFrames.toNat →
    (ticks90 s.bias (s.effPts t i)).isSome ∧ (ticks90 s.bias (s.effDts t i)).isSome ∧
      (t = .video → (ticks27M (s.effDts t i)).isSome)

/-! ## A remux pass, turn by turn

These say from the fields alone what 46_selector.md R206 to R210 say of one turn, without the functions that
`REMUX` itself runs on. -/

/-- `next(t)` (46_selector.md R206). -/
def nextIndex (s : State) (t : TrackId) : Nat :=
  (s.track t).firstFrame.toNat + (s.track t).framesWritten.toNat

/-- Track `t` has an unconsumed frame (46_selector.md R206). -/
def hasFrame (s : State) (t : TrackId) : Prop := nextIndex s t < (s.track t).nFrames.toNat

/-- The time that `REPEAT` adds: the lead track's first decode time, or presentation time where it has no decode
times (46_selector.md R206, `lead_first`). -/
def leadTime (s : State) : Word64 :=
  let f := s.info .video s.video.firstFrame.toNat
  if s.video.hasDts then f.dts else f.pts

/-- `eff_pts(t, i)` and `eff_dts(t, i)` (46_selector.md R206). -/
def frameTimes (s : State) (t : TrackId) (i : Nat) : Word64 × Word64 :=
  let f := s.info t i
  match (s.track t).repeatSeg, (s.track t).hasDts with
  | false, true => (f.pts, f.dts)
  | false, false => (f.pts, f.pts)
  | true, true => (fadd f.pts (leadTime s), fadd f.dts (leadTime s))
  | true, false => (fadd f.pts (leadTime s), fadd f.pts (leadTime s))

/-- The next audio frame comes strictly before the next video frame (46_selector.md R209). -/
def audioFirst (s : State) : Bool :=
  flt (frameTimes s .audio (nextIndex s .audio)).2 (frameTimes s .video (nextIndex s .video)).2

/-- It is the turn of track `t` (46_selector.md R209). -/
def turnOf (s : State) : TrackId → Prop
  | .video => hasFrame s .video ∧ (hasFrame s .audio → audioFirst s = false)
  | .audio => hasFrame s .audio ∧ (hasFrame s .video → audioFirst s = true)

/-- The frames one turn takes: one of video; of audio a batch, or what is left (46_selector.md R210). -/
def turnFrames (s : State) : TrackId → Nat
  | .video => 1
  | .audio => min s.audioBatch.toNat (s.audio.nFrames.toNat - nextIndex s .audio)

/-- A turn of track `t` at `s` ends at `u` (46_selector.md R210): the bytes of the frames it takes, each read where
its own extent lies, go in one PES packet with the first frame's times, the track's stream id and PID, and a PCR
on video alone; its packets stand at `OUT_WR`, the frames count as consumed, and nothing else changes. -/
def turnEnds (t : TrackId) (s u : State) : Prop :=
  let tr := s.track t
  let k := tr.framesWritten.toNat
  let payload := ((tr.extents.drop k).take (turnFrames s t)).flatMap fun e =>
    s.mem.readBytes (tr.tbufBase.toNat + e.offset.toNat) e.size.toNat
  let times := frameTimes s t (nextIndex s t)
  let sid := match t with | .video => 0xE0 | .audio => 0xC0
  let pid := match t with | .video => s.pmtPid.toNat + 2 | .audio => s.pmtPid.toNat + 1
  ∃ (p d : Int) (pcr : Option Int),
    ticks90 s.bias times.1 = some p ∧ ticks90 s.bias times.2 = some d ∧
    (match t with | .video => pcr.isSome = true ∧ pcr = ticks27M times.2 | .audio => pcr = none) ∧
    let data := pesHeader payload.length p d sid ++ payload
    let n := packetCount data.length pcr.isSome
    s.outWr.toNat + 188 * n ≤ s.outCap.toNat ∧
    Memory.Stored s.mem u.mem (s.outBase.toNat + s.outWr.toNat)
      (packets n tr.cc.toNat true pcr pid data).flatten ∧
    u = State.setTrack
      { s with mem := u.mem, outWr := BitVec.ofNat 32 (s.outWr.toNat + 188 * n),
               outPkts := BitVec.ofNat 32 (s.outPkts.toNat + n) }
      t
      { tr with
        cc := BitVec.ofNat 4 (tr.cc.toNat + n)
        framesWritten := BitVec.ofNat 32 (k + turnFrames s t)
        rdCur := BitVec.ofNat 32 ((s.extent t k).offset.toNat + payload.length) }

/-- The turns `ts`, each the turn of its track when it is taken, lead from `s` to `u` (46_selector.md R209,
R210). -/
def turnsLead : List TrackId → State → State → Prop
  | [], s, u => u = s
  | t :: ts, s, u => turnOf s t ∧ ∃ v, turnEnds t s v ∧ turnsLead ts v u

end Sys2Proof.Machine
end

