-- ==== Sys2Proof/Certificates/Slice0/Obligations.lean ====
section
/-! DEFINITION. The statements for the provers, from the numbered rules of the spec. A state `s.raiseError e` is
`s` with `ERR = e`, the bit of `e` set in `ERRLOG` and both result registers 0, nothing else changed
(`Obligations.ErrorsArePrecise` says so in full). -/

section Statements

open Sys2Proof Sys2Proof.Machine

/-! ## Packets at the command port (30_encoding.md) -/

/-- Decoding the packet of any well-formed command, whatever its operands and whatever follows it, gives the
command back and leaves what follows (30_encoding.md R80 to R84, R86). -/
def Obligations.DecodingAnEncodingGivesTheCommand : Prop :=
  ∀ (i : Instr) (rest : List PortWord), i.wellFormed = true → decode (encode i ++ rest) = .command i rest

/-- The words the decoder takes for a command are that command's packet and nothing else: every bit of a legal
header is accounted for (30_encoding.md R81, R84, R85). -/
def Obligations.ADecodedPacketIsItsEncoding : Prop :=
  ∀ (ws : List PortWord) (i : Instr) (rest : List PortWord), decode ws = .command i rest →
    ws = encode i ++ rest ∧ i.wellFormed = true

/-- The packets written out in the spec's listings decode to the commands they are listed for
(30_encoding.md R87, 40_bitwriter.md R102, 47_session.md R230, R242). -/
def Obligations.ListedPacketsDecode : Prop :=
  decode [.header 0x00000802#32, .operand 0x47#64] = .command (.putBits 8#8 0x47#64) [] ∧
  decode [.header 0x00000004#32] = .command .bwFlush [] ∧
  decode [.header 0x00000406#32, .operand 0x100#64] = .command (.wrreg (.global .pmtPid) 0x100#64) [] ∧
  decode [.header 0x00000310#32, .operand 0x2000#64, .operand 0#64, .operand 0x1002#64, .operand 0#64,
      .operand 0x202#64] =
    .command (.tsHdr true true false 0x2000#64 0#64 0x1002#64 0#64 514#64) [] ∧
  decode [.header 0x00000001#32, .operand 0x2000#64, .operand 0xBC#64] =
    .command (.bwInit 0x2000#64 188#64) [] ∧
  decode [.header 0x00000A06#32, .operand 0x10000#64] =
    .command (.wrreg (.global .outCap) 0x10000#64) [] ∧
  decode [.header 0x00000231#32, .operand 0x4000#64, .operand 500#64, .operand 0#64, .operand 0#64] =
    .command (.append false true 0x4000#64 500#64 0#64 0#64) []

/-- An illegal header ends with `E_ILLEGAL`: no operand word is taken, nothing but `STATUS`, `ERRLOG`, `RES0` and
`RES1` changes, and the next word the block sees is the one after the header. Every other header word is
legal; a width above the command's limit is no illegal header but out of range (30_encoding.md R85). -/
def Obligations.IllegalHeadersEndWithEIllegal : Prop :=
  (∀ (s : State) (h : Word32) (rest : List PortWord), s.port = .header h :: rest → illegalWord h →
    step s = .next { s with port := rest, err := .illegal, errlog := s.errlog ||| 0x20#32,
                            res0 := 0#64, res1 := 0#64 }) ∧
  (∀ h : Word32, ¬ illegalWord h → ∃ hd, decodeHeader h = .ok hd) ∧
  (∀ (s : State) (width : BitVec 8) (value : Word64), s.bwValid = true →
    (32 < width.toNat → exec (.putBits width value) s = .next (s.raiseError .range)) ∧
    (64 < width.toNat → exec (.putBits64 width value) s = .next (s.raiseError .range)))

/-- When the packet of a well-formed command stands at the front of the port, the step is that command's
execution, with its words taken off the port and nothing else done around it (30_encoding.md R80). -/
def Obligations.StepRunsTheDecodedCommand : Prop :=
  ∀ (s : State) (i : Instr) (rest : List PortWord), i.wellFormed = true → s.port = encode i ++ rest →
    step s = exec i { s with port := rest }

/-- With no packet or only a part of one at the port the block is idle and keeps all state (log 2, from
60_exceptions.md R274); where a header stands in place of an operand, or an operand in place of a header, the
model refuses (log 3, from 93_implementation_defined.md U9). Both are the model's reading of the port. -/
def Obligations.APortWithoutAWholePacketWaitsOrIsRefused : Prop :=
  (∀ (s : State) (i : Instr) (n : Nat), i.wellFormed = true → n < (encode i).length →
    s.port = (encode i).take n → step s = .next s) ∧
  (∀ (s : State) (w : Word64) (rest : List PortWord), s.port = .operand w :: rest →
    step s = .refused .portOutOfStep) ∧
  (∀ (s : State) (i : Instr) (n : Nat) (h : Word32) (rest : List PortWord), i.wellFormed = true → 0 < n →
    n < (encode i).length → s.port = (encode i).take n ++ .header h :: rest →
    step s = .refused .portOutOfStep)

/-! ## The register file and hardware reset (10_state.md) -/

/-- What `RDREG` finds in every register right after hardware reset, by index, whatever `M` then holds; no other
index names a register (10_state.md R24, R46; 70_reset_and_hazards.md R275). -/
def Obligations.ResetRegisterValues : Prop :=
  ∀ contents : Memory,
    Reg.all.map (fun r => (r.index.toNat, (State.hardwareReset contents).readReg r)) =
      [(0x00, 0#64), (0x01, 0#64), (0x02, 0#64), (0x03, 0#64), (0x04, 0x1000#64), (0x05, 1#64),
       (0x06, 0x3FD3333333333333#64), (0x07, 6#64), (0x08, 0#64), (0x09, 0#64), (0x0A, 0#64), (0x0B, 0#64),
       (0x0C, 0#64), (0x10, 0#64), (0x11, 0#64), (0x12, 0#64), (0x13, 0#64), (0x14, 0#64), (0x15, 0#64),
       (0x20, 0x1B#64), (0x21, 0#64), (0x22, 0#64), (0x23, 0#64), (0x24, 0#64), (0x25, 0#64),
       (0x26, 1572864#64), (0x27, 0#64), (0x28, 0#64), (0x29, 0#64), (0x2A, 1#64), (0x2B, 0#64), (0x2C, 0#64),
       (0x2D, 0#64), (0x2E, 0#64),
       (0x30, 0x0F#64), (0x31, 0#64), (0x32, 0#64), (0x33, 0#64), (0x34, 0#64), (0x35, 0#64),
       (0x36, 524288#64), (0x37, 0#64), (0x38, 0#64), (0x39, 0#64), (0x3A, 1#64), (0x3B, 0#64), (0x3C, 0#64),
       (0x3D, 0#64), (0x3E, 0#64)] ∧
    (State.hardwareReset contents).phase = .idle ∧ (State.hardwareReset contents).mem = contents

/-- The state after hardware reset meets the invariant of the block, whatever canonical contents `M` has
(10_state.md R25, R33, R34, R37, R39). -/
def Obligations.ResetStateIsGood : Prop :=
  State.reset.Ok ∧ ∀ contents : Memory, contents.wf = true → (State.hardwareReset contents).Ok

/-- `WRREG` (47_session.md R242): its packet, its errors in their order, and otherwise the named register reads
as the value written and every other register but `STATUS`, `RES0` and `RES1` as before. -/
def Obligations.WrregWritesOneRegister : Prop :=
  (∀ (reg : Reg) (value : Word64),
    encode (.wrreg reg value) = [.header (headerWord 0x06#8 reg.index), .operand value]) ∧
  (∀ idx : BitVec 8, Reg.ofIndex idx = none →
    decodeHeader (headerWord 0x06#8 idx) = .error .reservedIndex) ∧
  ∀ (reg : Reg) (value : Word64) (s : State),
    if reg.access = .ro then exec (.wrreg reg value) s = .next (s.raiseError .illegal)
    else if reg.access = .rwOff ∧ s.session ≠ .off then
      exec (.wrreg reg value) s = .next (s.raiseError .state)
    else if regLegal value reg = false then exec (.wrreg reg value) s = .next (s.raiseError .range)
    else ∃ t, exec (.wrreg reg value) s = .next t ∧ t.readReg reg = value ∧
      (∀ r : Reg, r ≠ reg → r ≠ .global .status → r ≠ .global .res0 → r ≠ .global .res1 →
        t.readReg r = s.readReg r) ∧
      t.err = .ok ∧ t.res0 = 0#64 ∧ t.res1 = 0#64 ∧ t.session = s.session ∧ t.bwValid = s.bwValid ∧
      t.outValid = s.outValid ∧ t.mem = s.mem ∧ t.video.infos = s.video.infos ∧
      t.video.extents = s.video.extents ∧ t.audio.infos = s.audio.infos ∧
      t.audio.extents = s.audio.extents ∧ t.phase = s.phase ∧ t.port = s.port

/-- A `WRREG` of a register that may be written in the state is out of range exactly when the value is outside
the register's legal set, and then the register keeps its value (10_state.md R25). -/
def Obligations.WrregRangeIsTheLegalSet : Prop :=
  ∀ (reg : Reg) (value : Word64) (s : State), reg.access ≠ .ro →
    (reg.access = .rwOff → s.session = .off) →
    (exec (.wrreg reg value) s = .next (s.raiseError .range) ↔
      ¬ match reg with
        | .global .pmtPid => 1 ≤ value.toNat ∧ value.toNat ≤ 0x1FFD
        | .global .tsid => value.toNat ≤ 0xFFFF
        | .global .bias => value.toNat / 2 ^ 52 % 2048 ≠ 2047
        | .global .audioBatch => 1 ≤ value.toNat ∧ value.toNat ≤ 1000
        | .global .psiCc => value.toNat ≤ 15
        | .track _ .cc => value.toNat ≤ 15
        | .track _ .codec => value.toNat ≤ 0xFF
        | .track _ .repeatSeg => value.toNat ≤ 1
        | .track _ .hasDts => value.toNat ≤ 1
        | _ => value.toNat ≤ 0xFFFFFFFF)

/-- `RDREG` (47_session.md R243) of any register gives its value before this command, zero-extended from the
register's width, and changes nothing else; a reserved index is an illegal header. -/
def Obligations.RdregReadsTheRegister : Prop :=
  (∀ reg : Reg, encode (.rdreg reg) = [.header (headerWord 0x07#8 reg.index)]) ∧
  (∀ idx : BitVec 8, Reg.ofIndex idx = none →
    decodeHeader (headerWord 0x07#8 idx) = .error .reservedIndex) ∧
  ∀ (reg : Reg) (s : State),
    exec (.rdreg reg) s = .next { s with err := .ok, res0 := s.readReg reg, res1 := 0#64 } ∧
      (s.readReg reg).toNat < 2 ^ regWidth reg

/-- Where the flags of `STATUS` stand, and that the reserved bits read 0 (10_state.md R22). -/
def Obligations.StatusWordFields : Prop :=
  ∀ s : State,
    s.statusWord.extractLsb' 0 2 = (match s.session with | .off => 0#2 | .ready => 1#2 | .failed => 2#2) ∧
    s.statusWord.getLsbD 2 = s.bwValid ∧ s.statusWord.getLsbD 3 = s.outValid ∧
    s.statusWord.extractLsb' 4 4 = 0#4 ∧
    s.statusWord.extractLsb' 8 8 =
      (match s.err with
        | .ok => 0#8 | .alloc => 1#8 | .overflow => 2#8 | .encode => 3#8 | .capacity => 4#8
        | .illegal => 5#8 | .bwBound => 6#8 | .range => 7#8 | .state => 8#8) ∧
    s.statusWord.extractLsb' 16 16 = 0#16

/-! ## The memory (20_memory.md) -/

/-- Two canonical memories that read alike at every address are the same data (log 4: the form is the model's
own). -/
def Obligations.CanonicalMemoryIsUnique : Prop :=
  ∀ m m' : Memory, m.wf = true → m'.wf = true → (∀ a, m.read a = m'.read a) → m = m'

/-- A store inside `M` changes exactly the bytes stored, reads back, and is the sequence of its single-byte
stores in ascending address order (20_memory.md R67; 00_scope.md R11). -/
def Obligations.StoresAreAscendingByteWrites : Prop :=
  ∀ (s : State) (a : Nat) (bs : List Byte), s.mem.wf = true → a + bs.length ≤ 2 ^ 32 →
    ∃ t, s.store a bs = .ok t ∧ t = { s with mem := t.mem } ∧ Memory.Stored s.mem t.mem a bs ∧
      t.load a bs.length = .ok bs ∧
      t.mem = (bs.zipIdx a).foldl (fun m b => m.writeBytes b.2 [b.1]) s.mem

/-! ## The bit writer (40_bitwriter.md) -/

/-- `BW_INIT` (40_bitwriter.md R102): its packet, its range error, and the writer it leaves; `M` is not
touched. The overlap premise is 20_memory.md R64's. -/
def Obligations.BwInitStartsTheWriter : Prop :=
  (∀ base bound : Word64,
    encode (.bwInit base bound) = [.header 0x00000001#32, .operand base, .operand bound]) ∧
  ∀ (base bound : Word64) (s : State),
    if 2 ^ 32 ≤ base.toNat ∨ 2 ^ 32 ≤ bound.toNat ∨ 2 ^ 32 < base.toNat + bound.toNat then
      exec (.bwInit base bound) s = .next (s.raiseError .range)
    else s.touchesSession base.toNat bound.toNat = false →
      exec (.bwInit base bound) s =
        .next { s with bw := { base := base.setWidth 32, bound := bound.setWidth 32, bitcnt := 0#64,
                               ptr := 0#32, acc := 0#32, accn := 0#6 },
                       bwValid := true, err := .ok, res0 := 0#64, res1 := 0#64 }

/-- `PUT_BITS` on an initialised writer with room appends the low `width` bits of the value to the bit string,
keeps the writer's invariants, and stores nothing but the words it commits at `BW_BASE + BW_PTR`
(40_bitwriter.md R100, R101, R103, R104). -/
def Obligations.PutBitsAppendsTheLowBits : Prop :=
  ∀ (width : BitVec 8) (value : Word64) (s : State), s.bwValid = true → s.bw.Ok → width.toNat ≤ 32 →
    s.bw.bitcnt.toNat + width.toNat ≤ 8 * s.bw.bound.toNat → s.writerTouchesSession = false →
    ∃ t, exec (.putBits width value) s = .next t ∧
      t.bitString = s.bitString * 2 ^ width.toNat + value.toNat % 2 ^ width.toNat ∧
      t.bw.bitcnt.toNat = s.bw.bitcnt.toNat + width.toNat ∧ t.bw.Ok ∧ t.bw.base = s.bw.base ∧
      t.bw.bound = s.bw.bound ∧
      Memory.SameOutside s.mem t.mem (s.bw.base.toNat + s.bw.ptr.toNat)
        (4 * ((s.bw.accn.toNat + width.toNat) / 32)) ∧
      t = { s with bw := t.bw, mem := t.mem, err := .ok, res0 := 0#64, res1 := 0#64 }

/-- `PUT_BITS64` appends the low `width` bits of its value, up to 64 of them, as one bit string: the split into
two appends does not show in it (40_bitwriter.md R105). -/
def Obligations.PutBits64AppendsTheLowBits : Prop :=
  ∀ (width : BitVec 8) (value : Word64) (s : State), s.bwValid = true → s.bw.Ok → width.toNat ≤ 64 →
    s.bw.bitcnt.toNat + width.toNat ≤ 8 * s.bw.bound.toNat → s.writerTouchesSession = false →
    ∃ t, exec (.putBits64 width value) s = .next t ∧
      t.bitString = s.bitString * 2 ^ width.toNat + value.toNat % 2 ^ width.toNat ∧
      t.bw.bitcnt.toNat = s.bw.bitcnt.toNat + width.toNat ∧ t.bw.Ok ∧ t.bw.base = s.bw.base ∧
      t.bw.bound = s.bw.bound ∧
      Memory.SameOutside s.mem t.mem (s.bw.base.toNat + s.bw.ptr.toNat)
        (4 * ((s.bw.accn.toNat + width.toNat) / 32)) ∧
      t = { s with bw := t.bw, mem := t.mem, err := .ok, res0 := 0#64, res1 := 0#64 }

/-- `BW_FLUSH` (40_bitwriter.md R106): the pending bits, padded with zeros to whole bytes, are in `M`, nothing is
pending any more, and the results are the bytes and the bits written. -/
def Obligations.BwFlushPadsAndCommits : Prop :=
  encode .bwFlush = [.header 0x00000004#32] ∧
  (∀ s : State, s.bwValid = false → exec .bwFlush s = .next (s.raiseError .state)) ∧
  ∀ s : State, s.bwValid = true → s.bw.Ok → s.writerTouchesSession = false →
    let n := (s.bw.accn.toNat + 7) / 8
    let pad := 8 * n - s.bw.accn.toNat
    ∃ t, exec .bwFlush s = .next t ∧ t.bitString = s.bitString * 2 ^ pad ∧ t.bw.acc = 0#32 ∧
      t.bw.accn = 0#6 ∧ t.bw.ptr.toNat = s.bw.ptr.toNat + n ∧
      t.bw.bitcnt.toNat = s.bw.bitcnt.toNat + pad ∧ t.bw.bitcnt.toNat = 8 * t.bw.ptr.toNat ∧ t.bw.Ok ∧
      t.bw.base = s.bw.base ∧ t.bw.bound = s.bw.bound ∧
      Memory.Stored s.mem t.mem (s.bw.base.toNat + s.bw.ptr.toNat)
        (beBytes n (s.bw.acc.toNat * 2 ^ pad)) ∧
      t = { s with bw := t.bw, mem := t.mem, err := .ok,
                   res0 := BitVec.ofNat 64 (t.bw.bitcnt.toNat / 8), res1 := t.bw.bitcnt }

/-- `BW_COUNT` (40_bitwriter.md R107): floor of the bit count over 8, and the bit count; no other state
changes. -/
def Obligations.BwCountReports : Prop :=
  encode .bwCount = [.header 0x00000005#32] ∧
  ∀ s : State, exec .bwCount s =
    if s.bwValid = false then .next (s.raiseError .state)
    else .next { s with err := .ok, res0 := BitVec.ofNat 64 (s.bw.bitcnt.toNat / 8), res1 := s.bw.bitcnt }

/-- The four commands that need an initialised writer raise `E_STATE` without one and change nothing
(40_bitwriter.md R111). -/
def Obligations.UninitialisedWriterIsRefused : Prop :=
  ∀ (s : State) (width : BitVec 8) (value : Word64), s.bwValid = false →
    exec (.putBits width value) s = .next (s.raiseError .state) ∧
    exec (.putBits64 width value) s = .next (s.raiseError .state) ∧
    exec .bwFlush s = .next (s.raiseError .state) ∧ exec .bwCount s = .next (s.raiseError .state)

/-- An append that would make `BW_BITCNT` exceed `8 * BW_BOUND` is not performed: `E_BWBOUND`, code 6, the writer
and `M` unchanged, `BW_VALID` still 1 (40_bitwriter.md R108). -/
def Obligations.BoundViolationChangesNothing : Prop :=
  ∀ (s : State) (width : BitVec 8) (value : Word64), s.bwValid = true →
    8 * s.bw.bound.toNat < s.bw.bitcnt.toNat + width.toNat →
    (width.toNat ≤ 32 → exec (.putBits width value) s =
      .next { s with err := .bwBound, errlog := s.errlog ||| 0x40#32, res0 := 0#64, res1 := 0#64 }) ∧
    (width.toNat ≤ 64 → exec (.putBits64 width value) s =
      .next { s with err := .bwBound, errlog := s.errlog ||| 0x40#32, res0 := 0#64, res1 := 0#64 })

/-! ## CRC-32 (41_crc32.md) -/

/-- `CRC32` (41_crc32.md R124): its packet, its range error, its result over the bytes of `M`, nothing else
changed; and a CRC may be continued over a second region. -/
def Obligations.Crc32OfMemory : Prop :=
  (∀ seed addr len : Word64, encode (.crc32 seed addr len) =
    [.header 0x00000008#32, .operand seed, .operand addr, .operand len]) ∧
  (∀ (seed addr len : Word64) (s : State), exec (.crc32 seed addr len) s =
    if 2 ^ 32 ≤ addr.toNat ∨ 2 ^ 32 ≤ len.toNat ∨ 2 ^ 32 < addr.toNat + len.toNat then
      .next (s.raiseError .range)
    else
      .next { s with
        err := .ok
        res0 := (crcMpeg (seed.setWidth 32) (s.mem.readBytes addr.toNat len.toNat)).setWidth 64
        res1 := 0#64 }) ∧
  (∀ (c : Word32) (a b : List Byte), crcMpeg (crcMpeg c a) b = crcMpeg c (a ++ b)) ∧
  (∀ c : Word32, crcMpeg c [] = c)

/-- The table-driven update is the bit-serial division with the register preset to the seed, message bits most
significant first (41_crc32.md R120, R122, R123; the spec takes this from general knowledge, log 15). -/
def Obligations.CrcIsBitSerialDivision : Prop :=
  ∀ (seed : Word32) (data : List Byte), crcMpeg seed data = (data.flatMap byteBits).foldl crcBit seed

/-- The CRC found in an emitted PAT or PMT equals the CRC recomputed over the same range of the emitted packet;
equivalently the CRC of any bytes followed by their own CRC, most significant byte first, is 0
(41_crc32.md R127, 45_psi_tables.md R188). -/
def Obligations.TablePacketsCarryTheirCrc : Prop :=
  (∀ (s : State) (counter : Nat),
    beBytes 4 (crcMpeg 0xFFFFFFFF#32 (((patPacket s counter).drop 5).take 12)).toNat =
      ((patPacket s counter).drop 17).take 4 ∧
    beBytes 4 (crcMpeg 0xFFFFFFFF#32 (((pmtPacket s counter).drop 5).take 22)).toNat =
      ((pmtPacket s counter).drop 27).take 4 ∧
    crcMpeg 0xFFFFFFFF#32 (((patPacket s counter).drop 5).take 16) = 0#32 ∧
    crcMpeg 0xFFFFFFFF#32 (((pmtPacket s counter).drop 5).take 26) = 0#32) ∧
  ∀ (c : Word32) (data : List Byte), crcMpeg c (data ++ beBytes 4 (crcMpeg c data).toNat) = 0#32

/-! ## TS headers (42_ts_header.md) -/

/-- The bytes of a TS header and its length, for every input (42_ts_header.md R131, R133 to R137); `pcr` is the
27 MHz tick count where a PCR is asked for. -/
def Obligations.TsHeaderBytes : Prop :=
  ∀ (cc : Nat) (pusi : Bool) (pcr : Option Int) (pid : Nat) (disc : Bool) (payload : Nat),
    let needPcr := pcr.isSome
    let six := if needPcr then 6 else 0
    let afc := if 184 ≤ payload ∧ needPcr = false ∧ disc = false then 1 else if payload = 0 then 2 else 3
    let h := tsHeader cc pusi pcr pid disc payload
    h = [0x47#8, BitVec.ofNat 8 ((if pusi then 0x40 else 0) + pid % 8192 / 256), BitVec.ofNat 8 (pid % 256),
         BitVec.ofNat 8 (afc * 16 + cc % 16)] ++
        (if afc = 1 then []
         else
          [BitVec.ofNat 8 (1 + six + (182 - six - payload)),
           BitVec.ofNat 8 ((if disc then 0x80 else 0) + (if needPcr then 0x10 else 0))] ++
          (match pcr with
            | some p => beBytes 6 ((p / 300 % 2 ^ 33).toNat * 2 ^ 15 + 0x3F * 2 ^ 9 + (p % 300).toNat)
            | none => []) ++
          List.replicate (182 - six - payload) 0xFF#8) ∧
    (184 ≤ payload → needPcr = false → disc = false → h.length = 4) ∧
    (184 ≤ payload → needPcr = false → disc = true → h.length = 6) ∧
    (177 ≤ payload → needPcr = true → h.length = 12) ∧
    (payload = 183 → needPcr = false → h.length = 6) ∧
    (1 ≤ payload → payload ≤ 182 → needPcr = false → h.length = 188 - payload) ∧
    (1 ≤ payload → payload ≤ 176 → needPcr = true → h.length = 188 - payload) ∧
    (payload = 0 → h.length = 188)

/-- Every header starts with 0x47 and, with the payload bytes that fit after it, fills 188 bytes exactly
(42_ts_header.md R140). -/
def Obligations.TsHeaderFillsThePacket : Prop :=
  ∀ (cc : Nat) (pusi : Bool) (pcr : Option Int) (pid : Nat) (disc : Bool) (payload : Nat),
    let h := tsHeader cc pusi pcr pid disc payload
    h.head? = some 0x47#8 ∧ 4 ≤ h.length ∧ h.length ≤ 188 ∧
      h.length + min (188 - h.length) payload = 188 ∧
      (188 - h.length ≤ payload ∨ payload ≤ 182 - (if pcr.isSome then 6 else 0))

/-- `TS_HDR` (42_ts_header.md R138): its packet, its errors in their order, the header stored at `dst` and
nothing stored elsewhere. The overlap premise is 20_memory.md R64's. -/
def Obligations.TsHdrStoresTheHeader : Prop :=
  (∀ (pusi needPcr disc : Bool) (dst cc pid time payload : Word64),
    encode (.tsHdr pusi needPcr disc dst cc pid time payload) =
      [.header (headerWord 0x10#8 (BitVec.ofNat 8 ((if pusi then 1 else 0) + (if needPcr then 2 else 0) +
        (if disc then 4 else 0)))),
       .operand dst, .operand cc, .operand pid, .operand time, .operand payload]) ∧
  ∀ (pusi needPcr disc : Bool) (dst cc pid time payload : Word64) (s : State),
    if 2 ^ 32 ≤ dst.toNat ∨ 2 ^ 32 ≤ payload.toNat ∨ 2 ^ 32 < dst.toNat + 188 then
      exec (.tsHdr pusi needPcr disc dst cc pid time payload) s = .next (s.raiseError .range)
    else if needPcr = true ∧ ticks27M time = none then
      exec (.tsHdr pusi needPcr disc dst cc pid time payload) s = .next (s.raiseError .range)
    else s.touchesSession dst.toNat 188 = false →
      let h := tsHeader (cc.toNat % 16) pusi (if needPcr then ticks27M time else none) (pid.toNat % 8192) disc
        payload.toNat
      ∃ t, exec (.tsHdr pusi needPcr disc dst cc pid time payload) s = .next t ∧
        Memory.Stored s.mem t.mem dst.toNat h ∧
        t = { s with mem := t.mem, bwValid := false, err := .ok, res0 := BitVec.ofNat 64 h.length,
                     res1 := BitVec.ofNat 64 (188 - h.length) }

/-! ## PES headers (43_pes_header.md) -/

/-- The bytes of a PES header for every input, timestamps given as their tick counts (43_pes_header.md R151, R152,
R155 to R157). -/
def Obligations.PesHeaderBytes : Prop :=
  ∀ (payload sid : Nat) (p d : Int),
    let both := decide (10 < (p - d).natAbs)
    let tlen := if both then 10 else 5
    let len16 := if sid % 256 / 16 = 0xE then 0 else (payload + 3 + tlen) % 65536
    let stamp (pre : Nat) (v : Int) : List Byte :=
      let t := (v % 2 ^ 33).toNat
      [BitVec.ofNat 8 (pre * 16 + t / 2 ^ 30 * 2 + 1), BitVec.ofNat 8 (t / 2 ^ 22 % 256),
       BitVec.ofNat 8 (t / 2 ^ 15 % 128 * 2 + 1), BitVec.ofNat 8 (t / 2 ^ 7 % 256),
       BitVec.ofNat 8 (t % 128 * 2 + 1)]
    pesHeader payload p d sid =
      [0x00#8, 0x00#8, 0x01#8, BitVec.ofNat 8 (sid % 256), BitVec.ofNat 8 (len16 / 256),
       BitVec.ofNat 8 (len16 % 256), 0x80#8, if both then 0xC0#8 else 0x80#8, BitVec.ofNat 8 tlen] ++
      (if both then stamp 0b0011 p ++ stamp 0b0001 d else stamp 0b0010 p)

/-- `PES_HDR` (43_pes_header.md R158): its packet, its errors in their order, the header stored at `dst` and
nothing stored elsewhere. The overlap premise is 20_memory.md R64's. -/
def Obligations.PesHdrStoresTheHeader : Prop :=
  (∀ (sid : BitVec 8) (dst bound payload pts dts : Word64),
    encode (.pesHdr sid dst bound payload pts dts) =
      [.header (headerWord 0x11#8 sid), .operand dst, .operand bound, .operand payload, .operand pts,
       .operand dts]) ∧
  ∀ (sid : BitVec 8) (dst bound payload pts dts : Word64) (s : State),
    if 2 ^ 32 ≤ dst.toNat ∨ 2 ^ 32 ≤ bound.toNat ∨ 2 ^ 32 ≤ payload.toNat ∨
        2 ^ 32 < dst.toNat + bound.toNat then
      exec (.pesHdr sid dst bound payload pts dts) s = .next (s.raiseError .range)
    else if finite pts = false ∨ finite dts = false then
      exec (.pesHdr sid dst bound payload pts dts) s = .next (s.raiseError .range)
    else match ticks90 s.bias pts, ticks90 s.bias dts with
      | some p, some d =>
        let q := pesHeader payload.toNat p d sid.toNat
        if bound.toNat < q.length then
          exec (.pesHdr sid dst bound payload pts dts) s = .next (s.raiseError .bwBound)
        else s.touchesSession dst.toNat bound.toNat = false →
          ∃ t, exec (.pesHdr sid dst bound payload pts dts) s = .next t ∧
            Memory.Stored s.mem t.mem dst.toNat q ∧
            t = { s with mem := t.mem, bwValid := false, err := .ok, res0 := BitVec.ofNat 64 q.length,
                         res1 := if 10 < (p - d).natAbs then 1#64 else 0#64 }
      | _, _ => exec (.pesHdr sid dst bound payload pts dts) s = .next (s.raiseError .range)

/-! ## Arithmetic on binary64 (00_scope.md R12, R13) -/

/-- Where their result is finite, `fadd`, `fmul` and `fdiv` of finite numbers give a binary64 number nearest to
the exact sum, product and quotient, ties to even; `f64(n)` is exact below 2^53; `ftoi` truncates toward zero
inside its domain; `flt` is the numeric order. `f64Int` is a number's value in units of 2^-1074
(00_scope.md R12). -/
def Obligations.Binary64ArithmeticIsCorrectlyRounded : Prop :=
  (∀ a b : Word64, finite a = true → finite b = true →
    (finite (fadd a b) = true → nearestTo (fadd a b) (f64Int a + f64Int b) 1) ∧
    (finite (fmul a b) = true → nearestTo (fmul a b) (f64Int a * f64Int b) (2 ^ 1074)) ∧
    (f64Int b ≠ 0 → finite (fdiv a b) = true →
      nearestTo (fdiv a b) (f64Int a * 2 ^ 1074) (f64Int b)) ∧
    (flt a b = true ↔ f64Int a < f64Int b)) ∧
  (∀ n : Nat, n < 2 ^ 53 → finite (f64OfNat n) = true ∧ f64Int (f64OfNat n) = (n : Int) * 2 ^ 1074) ∧
  (∀ a : Word64, ftoi a =
    if finite a = true ∧ (f64Int a).natAbs < 2 ^ 63 * 2 ^ 1074 then some ((f64Int a).tdiv (2 ^ 1074)) else none)

/-! ## The packetizer (44_packetizer.md) -/

/-- The packets of one PES packet, read as a receiver reads them: as many as `packet_count` says, each 188 bytes
with sync byte and PID, counters consecutive modulo 16, the start flag on the first alone, and payloads that
put together are exactly the bytes given (44_packetizer.md R171, R173, R175 to R177). -/
def Obligations.PacketsCarryTheData : Prop :=
  ∀ (cc : Nat) (pcr : Option Int) (pid : Nat) (data : List Byte),
    let n := packetCount data.length pcr.isSome
    let ps := packets n cc true pcr pid data
    ps.length = n ∧ (ps.map packetPayload).flatten = data ∧
      ∀ (j : Nat) (h : j < ps.length),
        ps[j].length = 188 ∧ ps[j].head? = some 0x47#8 ∧ packetCc ps[j] = (cc + j) % 16 ∧
          packetPid ps[j] = pid % 8192 ∧ packetStart ps[j] = decide (j = 0)

/-- `PACK` (44_packetizer.md R178, R179): its packet, its errors in their order, the frame's packets stored at
`OUT_BASE + OUT_WR` and nothing stored elsewhere. The overlap premise is 20_memory.md R64's; the output region
lies in `M` in every session (47_session.md R226). -/
def Obligations.PackStoresTheFramesPackets : Prop :=
  (∀ (pcr track : Bool) (src size pts dts sid pid : Word64), encode (.pack pcr track src size pts dts sid pid) =
    [.header (headerWord 0x12#8 (BitVec.ofNat 8 ((if pcr then 1 else 0) + (if track then 2 else 0)))),
     .operand src, .operand size, .operand pts, .operand dts, .operand sid, .operand pid]) ∧
  ∀ (pcr track : Bool) (src size pts dts sid pid : Word64) (s : State),
    if s.session ≠ .ready then
      exec (.pack pcr track src size pts dts sid pid) s = .next (s.raiseError .state)
    else if 2 ^ 32 ≤ src.toNat ∨ 2 ^ 32 ≤ size.toNat ∨ 2 ^ 32 < src.toNat + size.toNat then
      exec (.pack pcr track src size pts dts sid pid) s = .next (s.raiseError .range)
    else if finite pts = false ∨ finite dts = false then
      exec (.pack pcr track src size pts dts sid pid) s = .next (s.raiseError .range)
    else match ticks90 s.bias pts, ticks90 s.bias dts, (if pcr then ticks27M dts else some 0) with
      | some p, some d, some k =>
        let data := pesHeader size.toNat p d (sid.toNat % 256) ++ s.mem.readBytes src.toNat size.toNat
        let n := packetCount data.length pcr
        let tr := s.track (.ofBit track)
        if s.outCap.toNat < s.outWr.toNat + 188 * n then
          exec (.pack pcr track src size pts dts sid pid) s = .next (s.raiseError .overflow)
        else s.outBase.toNat + s.outCap.toNat ≤ 2 ^ 32 →
          regionsOverlap src.toNat size.toNat (s.outBase.toNat + s.outWr.toNat) (188 * n) = false →
          ∃ t, exec (.pack pcr track src size pts dts sid pid) s = .next t ∧
            Memory.Stored s.mem t.mem (s.outBase.toNat + s.outWr.toNat)
              (packets n tr.cc.toNat true (if pcr then some k else none) (pid.toNat % 8192) data).flatten ∧
            t = State.setTrack
              { s with mem := t.mem, outWr := BitVec.ofNat 32 (s.outWr.toNat + 188 * n),
                       outPkts := BitVec.ofNat 32 (s.outPkts.toNat + n), outValid := false,
                       bwValid := false, err := .ok, res0 := BitVec.ofNat 64 n,
                       res1 := BitVec.ofNat 64 (s.outWr.toNat + 188 * n) }
              (.ofBit track) { tr with cc := BitVec.ofNat 4 (tr.cc.toNat + n) }
      | _, _, _ => exec (.pack pcr track src size pts dts sid pid) s = .next (s.raiseError .range)

/-! ## Program tables (45_psi_tables.md) -/

/-- The 188 bytes of a PAT packet (45_psi_tables.md R186, R187). -/
def Obligations.PatPacketBytes : Prop :=
  ∀ (s : State) (counter : Nat),
    let body : List Byte :=
      [0x00#8, 0xB0#8, 0x0D#8, BitVec.ofNat 8 (s.tsid.toNat / 256), BitVec.ofNat 8 (s.tsid.toNat % 256),
       0xC1#8, 0x00#8, 0x00#8, 0x00#8, 0x01#8, BitVec.ofNat 8 (0xE0 + s.pmtPid.toNat / 256),
       BitVec.ofNat 8 (s.pmtPid.toNat % 256)]
    patPacket s counter =
      [0x47#8, 0x40#8, 0x00#8, BitVec.ofNat 8 (0x10 + counter % 16), 0x00#8] ++ body ++
        beBytes 4 (crcMpeg 0xFFFFFFFF#32 body).toNat ++ List.replicate 167 0xFF#8 ∧
      (patPacket s counter).length = 188

/-- The 188 bytes of a PMT packet, for every legal `PMT_PID`: the audio entry first, the PIDs of 45_psi_tables.md
R190, the PCR on the video PID (45_psi_tables.md R191 to R193). -/
def Obligations.PmtPacketBytes : Prop :=
  ∀ (s : State) (counter : Nat), s.pmtPid.toNat ≤ 0x1FFD →
    let audioPid := s.pmtPid.toNat + 1
    let videoPid := s.pmtPid.toNat + 2
    let body : List Byte :=
      [0x02#8, 0xB0#8, 0x17#8, 0x00#8, 0x01#8, 0xC1#8, 0x00#8, 0x00#8,
       BitVec.ofNat 8 (0xE0 + videoPid / 256), BitVec.ofNat 8 (videoPid % 256), 0xF0#8, 0x00#8,
       s.audio.codec, BitVec.ofNat 8 (0xE0 + audioPid / 256), BitVec.ofNat 8 (audioPid % 256), 0xF0#8, 0x00#8,
       s.video.codec, BitVec.ofNat 8 (0xE0 + videoPid / 256), BitVec.ofNat 8 (videoPid % 256), 0xF0#8, 0x00#8]
    pmtPacket s counter =
      [0x47#8, BitVec.ofNat 8 (0x40 + s.pmtPid.toNat / 256), BitVec.ofNat 8 (s.pmtPid.toNat % 256),
       BitVec.ofNat 8 (0x10 + counter % 16), 0x00#8] ++ body ++
        beBytes 4 (crcMpeg 0xFFFFFFFF#32 body).toNat ++ List.replicate 157 0xFF#8 ∧
      (pmtPacket s counter).length = 188

/-- `PAT` and `PMT` (45_psi_tables.md R189, R194): their packets, their range error, the table packet with the
low 4 bits of the counter stored at `dst` and nothing stored elsewhere. The overlap premise is 20_memory.md
R64's. -/
def Obligations.PatAndPmtStoreTheirPackets : Prop :=
  (∀ dst counter : Word64,
    encode (.pat dst counter) = [.header 0x00000018#32, .operand dst, .operand counter] ∧
    encode (.pmt dst counter) = [.header 0x00000019#32, .operand dst, .operand counter]) ∧
  ∀ (dst counter : Word64) (s : State),
    if 2 ^ 32 ≤ dst.toNat ∨ 2 ^ 32 < dst.toNat + 188 then
      exec (.pat dst counter) s = .next (s.raiseError .range) ∧
      exec (.pmt dst counter) s = .next (s.raiseError .range)
    else s.touchesSession dst.toNat 188 = false →
      (∃ t, exec (.pat dst counter) s = .next t ∧
        Memory.Stored s.mem t.mem dst.toNat (patPacket s (counter.toNat % 16)) ∧
        t = { s with mem := t.mem, bwValid := false, err := .ok, res0 := 188#64, res1 := 0#64 }) ∧
      (∃ t, exec (.pmt dst counter) s = .next t ∧
        Memory.Stored s.mem t.mem dst.toNat (pmtPacket s (counter.toNat % 16)) ∧
        t = { s with mem := t.mem, bwValid := false, err := .ok, res0 := 188#64, res1 := 0#64 })

/-- Table packets built with two counters differ at most in the low 4 bits of byte 3, and a PAT decodes to
program number 1 at the PMT's PID (45_psi_tables.md R195). -/
def Obligations.TablesDifferOnlyInTheCounter : Prop :=
  ∀ (s : State) (a b : Nat),
    (∀ i, i ≠ 3 → (patPacket s a)[i]? = (patPacket s b)[i]? ∧ (pmtPacket s a)[i]? = (pmtPacket s b)[i]?) ∧
    ((patPacket s a).getD 3 0#8).toNat / 16 = ((patPacket s b).getD 3 0#8).toNat / 16 ∧
    ((pmtPacket s a).getD 3 0#8).toNat / 16 = ((pmtPacket s b).getD 3 0#8).toNat / 16 ∧
    ((patPacket s a).drop 13).take 2 = [0x00#8, 0x01#8] ∧
    ((patPacket s a).getD 15 0#8).toNat % 32 * 256 + ((patPacket s a).getD 16 0#8).toNat = s.pmtPid.toNat

/-! ## The remux pass (46_selector.md) -/

/-- The selection is the spec's loop over track 0, then track 1, with the strict comparison, so the earlier track
keeps a tie; and where both tracks have a frame with a finite key, it is the audio track exactly when its key
is the smaller number (46_selector.md R209). -/
def Obligations.SelectionIsTheStableMinimum : Prop :=
  ∀ s : State,
    s.select = [TrackId.video, TrackId.audio].foldl
      (fun best t =>
        if s.avail t && (match best with
            | none => true
            | some b => flt (s.selectKey t) (s.selectKey b)) then some t
        else best) none ∧
    (s.avail .video = true → s.avail .audio = true → finite (s.selectKey .video) = true →
      finite (s.selectKey .audio) = true →
      s.select = if f64Int (s.selectKey .audio) < f64Int (s.selectKey .video) then some .audio
        else some .video)

/-- A pass with no frame to consume succeeds with the two table packets alone (46_selector.md R207, R213). -/
def Obligations.RemuxWithoutFramesEmitsTheTables : Prop :=
  encode .remux = [.header 0x00000020#32] ∧
  ∀ s : State, s.session = .ready → ((s.video.repeatSeg = true ∨ s.audio.repeatSeg = true) →
      s.video.firstFrame.toNat < s.video.nFrames.toNat) →
    s.avail .video = false → s.avail .audio = false → 376 ≤ s.outCap.toNat →
    s.outBase.toNat + s.outCap.toNat ≤ 2 ^ 32 →
    ∃ t, exec .remux s = .next t ∧
      Memory.Stored s.mem t.mem s.outBase.toNat
        (patPacket s s.psiCc.toNat ++ pmtPacket s s.psiCc.toNat) ∧
      t = { s with mem := t.mem, psiCc := s.psiCc + 1#4, outWr := 376#32, outPkts := 2#32,
                   outValid := true, bwValid := false, phase := .idle, err := .ok, res0 := 376#64,
                   res1 := 2#64 }

/-- A pass in a good ready state, with an output region as large as the spec's sizing rule asks (taken frame by
frame) and all timestamps convertible, succeeds: it consumes every frame of both tracks, the stream is valid
and the results are its bytes and packets (46_selector.md R211, R213; 70_reset_and_hazards.md R277). -/
def Obligations.RemuxSucceedsWithEnoughOutput : Prop :=
  ∀ s : State, s.Ok → s.session = .ready →
    ((s.video.repeatSeg = true ∨ s.audio.repeatSeg = true) → 0 < s.video.nFrames.toNat) →
    s.ticksDefined .video → s.ticksDefined .audio →
    376 + 188 * (s.packetsLeft .video + s.packetsLeft .audio) ≤ s.outCap.toNat →
    ∃ t, exec .remux s = .next t ∧ t.err = .ok ∧ t.errlog = s.errlog ∧ t.session = .ready ∧
      t.outValid = true ∧ t.bwValid = false ∧ t.phase = .idle ∧
      t.video.framesWritten = s.video.nFrames ∧ t.audio.framesWritten = s.audio.nFrames ∧
      t.outWr.toNat = 188 * t.outPkts.toNat ∧
      t.outWr.toNat ≤ 376 + 188 * (s.packetsLeft .video + s.packetsLeft .audio) ∧
      t.res0 = t.outWr.setWidth 64 ∧ t.res1 = t.outPkts.setWidth 64

/-- A pass that fails after its gate releases the output, leaves the session `FAILED`, clears `BW_VALID` and
reports the code, also in `ERRLOG` (log 19), with zero results; the counters and cursors are those of the state
in which the pass stopped; it fails only with `E_OVERFLOW` or `E_RANGE`, and with `E_OVERFLOW` at once where the
output region cannot hold the tables (46_selector.md R207, R214). -/
def Obligations.FailedRemuxReleasesTheOutput : Prop :=
  (∀ s t : State, s.remuxGate = true → exec .remux s = .next t → t.err ≠ .ok →
    (t.err = .overflow ∨ t.err = .range) ∧
    ∃ s', remuxPass s = .failed t.err s' ∧
      t = { s' with outWr := 0#32, outPkts := 0#32, outValid := false, session := .failed,
                    bwValid := false, phase := .idle, err := t.err,
                    errlog := s'.errlog ||| (1#32 <<< t.err.code.toNat), res0 := 0#64, res1 := 0#64 }) ∧
  ∀ s : State, s.remuxGate = true → s.outCap.toNat < 376 →
    exec .remux s =
      .next { s with outWr := 0#32, outPkts := 0#32, outValid := false, session := .failed,
                     bwValid := false, phase := .idle, err := .overflow, errlog := s.errlog ||| 4#32,
                     res0 := 0#64, res1 := 0#64 }

/-- Whatever a pass does, it stores nothing outside the output region, and changes of a track nothing but its
`FRAMES_WRITTEN`, `RD_CUR` and `CC`; of the rest only the output position, `PSI_CC`, the flags and the results
(46_selector.md R213, R214, R216). -/
def Obligations.RemuxChangesOnlyItsOwnState : Prop :=
  ∀ s t : State, exec .remux s = .next t →
    Memory.SameOutside s.mem t.mem s.outBase.toNat s.outCap.toNat ∧
    (∀ tr : TrackId, t.track tr = { s.track tr with framesWritten := (t.track tr).framesWritten
                                                    rdCur := (t.track tr).rdCur
                                                    cc := (t.track tr).cc }) ∧
    t = { s with mem := t.mem, video := t.video, audio := t.audio, psiCc := t.psiCc, outWr := t.outWr,
                 outPkts := t.outPkts, outValid := t.outValid, bwValid := t.bwValid, session := t.session,
                 phase := t.phase, err := t.err, errlog := t.errlog, res0 := t.res0, res1 := t.res1 }

/-- A successful pass leaves the PAT and the PMT, both with the counter `PSI_CC` had, as the first two packets of
the output, counts `PSI_CC` on by one, and every packet of the output starts with the sync byte
(46_selector.md R207; 44_packetizer.md R176; 10_state.md R33). -/
def Obligations.RemuxOutputStartsWithTheTables : Prop :=
  ∀ s t : State, exec .remux s = .next t → t.err = .ok →
    t.mem.readBytes s.outBase.toNat 376 = patPacket s s.psiCc.toNat ++ pmtPacket s s.psiCc.toNat ∧
    t.psiCc = s.psiCc + 1#4 ∧ t.outWr.toNat = 188 * t.outPkts.toNat ∧ 2 ≤ t.outPkts.toNat ∧
    ∀ j, j < t.outPkts.toNat → t.mem.read (s.outBase.toNat + 188 * j) = 0x47#8

/-! ## The session (47_session.md) -/

/-- `INIT` (47_session.md R226): its packet, its errors in their order, and the session it opens. Of the frame
arrays, unspecified afterwards, it says nothing. -/
def Obligations.InitOpensTheSession : Prop :=
  (∀ frameRate sampleRate channelCount : Word64, encode (.init frameRate sampleRate channelCount) =
    [.header 0x00000030#32, .operand frameRate, .operand sampleRate, .operand channelCount]) ∧
  ∀ (frameRate sampleRate channelCount : Word64) (s : State),
    let v := (s.video.tbufBase.toNat, s.video.tbufCap.toNat)
    let a := (s.audio.tbufBase.toNat, s.audio.tbufCap.toNat)
    let o := (s.outBase.toNat, s.outCap.toNat)
    if s.session ≠ .off then
      exec (.init frameRate sampleRate channelCount) s = .next (s.raiseError .state)
    else if 2 ^ 32 ≤ frameRate.toNat ∨ 2 ^ 32 ≤ sampleRate.toNat ∨ 2 ^ 32 ≤ channelCount.toNat then
      exec (.init frameRate sampleRate channelCount) s = .next (s.raiseError .range)
    else if frameRate.toNat = 0 ∨ sampleRate.toNat = 0 then
      exec (.init frameRate sampleRate channelCount) s = .next (s.raiseError .range)
    else if (v.2 = 0 ∨ a.2 = 0 ∨ o.2 = 0) ∨
        (2 ^ 32 < v.1 + v.2 ∨ 2 ^ 32 < a.1 + a.2 ∨ 2 ^ 32 < o.1 + o.2) ∨
        (regionsOverlap v.1 v.2 a.1 a.2 = true ∨ regionsOverlap v.1 v.2 o.1 o.2 = true ∨
          regionsOverlap a.1 a.2 o.1 o.2 = true) then
      exec (.init frameRate sampleRate channelCount) s = .next (s.raiseError .alloc)
    else ∃ t, exec (.init frameRate sampleRate channelCount) s = .next t ∧
      t = { s with
        video := { s.video with
          rate := frameRate.setWidth 32, channels := 0#32
          tsInc := fdiv (f64OfNat 1) (f64OfNat frameRate.toNat), tsNext := 0#64
          nFrames := 0#32, framesWritten := 0#32, firstFrame := 0#32, wrCur := 0#32, rdCur := 0#32
          cc := 0#4, infos := t.video.infos, extents := t.video.extents }
        audio := { s.audio with
          rate := sampleRate.setWidth 32, channels := channelCount.setWidth 32
          tsInc := fdiv (f64OfNat 1024) (f64OfNat sampleRate.toNat), tsNext := 0#64
          nFrames := 0#32, framesWritten := 0#32, firstFrame := 0#32, wrCur := 0#32, rdCur := 0#32
          cc := 0#4, infos := t.audio.infos, extents := t.audio.extents }
        psiCc := 0#4, outWr := 0#32, outPkts := 0#32, outValid := false, session := .ready
        err := .ok, res0 := 0#64, res1 := 0#64 }

/-- `APPEND` (47_session.md R230): its packet, its errors in their order, the frame's bytes stored at the write
cursor and nothing stored elsewhere, one entry added to each array. The overlap premise is 20_memory.md
R64's; the buffer lies in `M` in every session (47_session.md R226). -/
def Obligations.AppendAddsOneFrame : Prop :=
  (∀ (track key : Bool) (src size pts dts : Word64), encode (.append track key src size pts dts) =
    [.header (headerWord 0x31#8 (BitVec.ofNat 8 ((if track then 1 else 0) + (if key then 2 else 0)))),
     .operand src, .operand size, .operand pts, .operand dts]) ∧
  ∀ (track key : Bool) (src size pts dts : Word64) (s : State),
    let tr := s.track (.ofBit track)
    if s.session ≠ .ready then exec (.append track key src size pts dts) s = .next (s.raiseError .state)
    else if 2 ^ 32 ≤ src.toNat ∨ 2 ^ 32 ≤ size.toNat ∨ 2 ^ 32 < src.toNat + size.toNat then
      exec (.append track key src size pts dts) s = .next (s.raiseError .range)
    else if finite pts = false ∨ finite dts = false then
      exec (.append track key src size pts dts) s = .next (s.raiseError .range)
    else if 1000 ≤ tr.nFrames.toNat then
      exec (.append track key src size pts dts) s = .next (s.raiseError .capacity)
    else if tr.tbufCap.toNat < tr.wrCur.toNat + size.toNat then
      exec (.append track key src size pts dts) s = .next (s.raiseError .overflow)
    else tr.Ok → tr.tbufBase.toNat + tr.tbufCap.toNat ≤ 2 ^ 32 →
      regionsOverlap src.toNat size.toNat (tr.tbufBase.toNat + tr.wrCur.toNat) size.toNat = false →
      ∃ t, exec (.append track key src size pts dts) s = .next t ∧
        Memory.Stored s.mem t.mem (tr.tbufBase.toNat + tr.wrCur.toNat)
          (s.mem.readBytes src.toNat size.toNat) ∧
        t = State.setTrack
          { s with mem := t.mem, err := .ok, res0 := BitVec.ofNat 64 tr.nFrames.toNat,
                   res1 := BitVec.ofNat 64 (tr.wrCur.toNat + size.toNat) }
          (.ofBit track)
          { tr with
            nFrames := BitVec.ofNat 32 (tr.nFrames.toNat + 1)
            wrCur := BitVec.ofNat 32 (tr.wrCur.toNat + size.toNat)
            infos := tr.infos ++ [{ pts := pts, dts := dts, key := key || track }]
            extents := tr.extents ++ [{ offset := tr.wrCur, size := size.setWidth 32 }] }

/-- What an accept command `i` of track `t0` with key flag `key` does (47_session.md R234, R235): its errors in
their order, and otherwise an append with the derived timestamp, which then advances by the increment. That
`E_ENCODE` comes before the `E_RANGE` of a `TS_NEXT` that is not finite is the model's reading (log 18). -/
def acceptsFrame (i : Instr) (t0 : TrackId) (key : Bool) (src size status : Word64) (s : State) : Prop :=
  let tr := s.track t0
  if s.session ≠ .ready then exec i s = .next (s.raiseError .state)
  else if 2 ^ 32 ≤ src.toNat ∨ 2 ^ 32 ≤ size.toNat ∨ 2 ^ 32 < src.toNat + size.toNat then
    exec i s = .next (s.raiseError .range)
  else if status.toNat ≠ 0 then exec i s = .next (s.raiseError .encode)
  else if finite tr.tsNext = false then exec i s = .next (s.raiseError .range)
  else if 1000 ≤ tr.nFrames.toNat then exec i s = .next (s.raiseError .capacity)
  else if tr.tbufCap.toNat < tr.wrCur.toNat + size.toNat then exec i s = .next (s.raiseError .overflow)
  else tr.Ok → tr.tbufBase.toNat + tr.tbufCap.toNat ≤ 2 ^ 32 →
    regionsOverlap src.toNat size.toNat (tr.tbufBase.toNat + tr.wrCur.toNat) size.toNat = false →
    ∃ t, exec i s = .next t ∧
      Memory.Stored s.mem t.mem (tr.tbufBase.toNat + tr.wrCur.toNat)
        (s.mem.readBytes src.toNat size.toNat) ∧
      t = State.setTrack
        { s with mem := t.mem, err := .ok, res0 := BitVec.ofNat 64 tr.nFrames.toNat,
                 res1 := BitVec.ofNat 64 (tr.wrCur.toNat + size.toNat) }
        t0
        { tr with
          nFrames := BitVec.ofNat 32 (tr.nFrames.toNat + 1)
          wrCur := BitVec.ofNat 32 (tr.wrCur.toNat + size.toNat)
          infos := tr.infos ++ [{ pts := tr.tsNext, dts := tr.tsNext, key := key }]
          extents := tr.extents ++ [{ offset := tr.wrCur, size := size.setWidth 32 }]
          tsNext := fadd tr.tsNext tr.tsInc }

/-- `ACCEPT_V` and `ACCEPT_A` (47_session.md R234, R235): their packets, and what `acceptsFrame` says of each on
its own track; an audio frame is always a key frame. The place of `E_ENCODE` before the `E_RANGE` of a `TS_NEXT` that is
not finite is the model's reading (log 18). The overlap premise is 20_memory.md R64's. -/
def Obligations.AcceptAddsAFrameWithTheDerivedTime : Prop :=
  (∀ (key : Bool) (src size status : Word64), encode (.acceptV key src size status) =
    [.header (headerWord 0x32#8 (if key then 2#8 else 0#8)), .operand src, .operand size,
     .operand status]) ∧
  (∀ src size status : Word64, encode (.acceptA src size status) =
    [.header 0x00000033#32, .operand src, .operand size, .operand status]) ∧
  (∀ (key : Bool) (src size status : Word64) (s : State),
    acceptsFrame (.acceptV key src size status) .video key src size status s) ∧
  (∀ (src size status : Word64) (s : State),
    acceptsFrame (.acceptA src size status) .audio true src size status s)

/-- `RESET` (47_session.md R238): its packet, its error, and the tracks and the output emptied with the counters,
timestamps and configuration kept. Of the frame arrays, unspecified afterwards, it says nothing. -/
def Obligations.ResetEmptiesTheBuffers : Prop :=
  encode .reset = [.header 0x00000034#32] ∧
  ∀ s : State,
    if s.session = .off then exec .reset s = .next (s.raiseError .state)
    else ∃ t, exec .reset s = .next t ∧
      t = { s with
        video := { s.video with
          nFrames := 0#32, framesWritten := 0#32, firstFrame := 0#32, wrCur := 0#32, rdCur := 0#32
          infos := t.video.infos, extents := t.video.extents }
        audio := { s.audio with
          nFrames := 0#32, framesWritten := 0#32, firstFrame := 0#32, wrCur := 0#32, rdCur := 0#32
          infos := t.audio.infos, extents := t.audio.extents }
        outWr := 0#32, outPkts := 0#32, outValid := false, session := .ready
        err := .ok, res0 := 0#64, res1 := 0#64 }

/-- `TEARDOWN` (47_session.md R240): its packet, and in every state the counters zeroed, `ERRLOG` cleared and the
session `OFF`, with the configuration, the bit writer and `M` kept. Of the frame arrays, unspecified
afterwards, it says nothing. -/
def Obligations.TeardownClosesTheSession : Prop :=
  encode .teardown = [.header 0x00000035#32] ∧
  ∀ s : State, ∃ t, exec .teardown s = .next t ∧
    t = { s with
      video := { s.video with
        nFrames := 0#32, framesWritten := 0#32, firstFrame := 0#32, wrCur := 0#32, rdCur := 0#32
        cc := 0#4, tsNext := 0#64, tsInc := 0#64, rate := 0#32, channels := 0#32
        infos := t.video.infos, extents := t.video.extents }
      audio := { s.audio with
        nFrames := 0#32, framesWritten := 0#32, firstFrame := 0#32, wrCur := 0#32, rdCur := 0#32
        cc := 0#4, tsNext := 0#64, tsInc := 0#64, rate := 0#32, channels := 0#32
        infos := t.audio.infos, extents := t.audio.extents }
      psiCc := 0#4, outWr := 0#32, outPkts := 0#32, outValid := false, errlog := 0#32
      session := .off, err := .ok, res0 := 0#64, res1 := 0#64 }

/-- The session changes only as the life cycle allows: `INIT` opens it, a failing `REMUX` fails it, `RESET`
makes it ready again, `TEARDOWN` closes it (47_session.md R225; 10_state.md R41). -/
def Obligations.SessionLifeCycle : Prop :=
  ∀ (i : Instr) (s t : State), exec i s = .next t →
    t.session = s.session ∨
    (s.session = .off ∧ t.session = .ready ∧ ∃ f r c, i = .init f r c) ∨
    (s.session = .ready ∧ t.session = .failed ∧ i = .remux ∧ t.err ≠ .ok) ∨
    (s.session = .failed ∧ t.session = .ready ∧ i = .reset) ∨
    (t.session = .off ∧ i = .teardown)

/-- In a good state no command changes a valid entry of any of the five frame arrays (`pts`, `dts`, `flags`, `offset`
and `size`); the entries become invalid only when `RESET`, `INIT` or `TEARDOWN` zeroes the frame count, and each
array holds exactly `N_FRAMES` entries (10_state.md R37; 47_session.md R231). -/
def Obligations.FramesAreImmutable : Prop :=
  ∀ (i : Instr) (s t : State), s.Ok → exec i s = .next t → ∀ tr : TrackId,
    (t.track tr).infos.length = (t.track tr).nFrames.toNat ∧
    (t.track tr).extents.length = (t.track tr).nFrames.toNat ∧
    ((∀ j, j < (s.track tr).nFrames.toNat →
        j < (t.track tr).nFrames.toNat ∧ t.info tr j = s.info tr j ∧ t.extent tr j = s.extent tr j) ∨
      ((t.track tr).nFrames = 0#32 ∧ (i = .reset ∨ i = .teardown ∨ ∃ f r c, i = .init f r c)))

/-- Only `WRREG` changes a configuration register, and outside `OFF` not even `WRREG` moves a region
(70_reset_and_hazards.md R276, R288; 10_state.md R24). -/
def Obligations.ConfigurationChangesOnlyByWrreg : Prop :=
  ∀ (i : Instr) (s t : State), exec i s = .next t →
    ((∀ reg value, i ≠ .wrreg reg value) →
      t.pmtPid = s.pmtPid ∧ t.tsid = s.tsid ∧ t.bias = s.bias ∧ t.audioBatch = s.audioBatch ∧
        ∀ tr : TrackId, (t.track tr).codec = (s.track tr).codec ∧
          (t.track tr).repeatSeg = (s.track tr).repeatSeg ∧ (t.track tr).hasDts = (s.track tr).hasDts) ∧
    ((∀ reg value, i ≠ .wrreg reg value) ∨ s.session ≠ .off →
      t.sessionRegions = s.sessionRegions)

/-! ## Errors (60_exceptions.md) -/

/-- In a state where `FIRST_FRAME[0]` is 0, as it always is, a command with a legal header raises `E_STATE` exactly
where the table of 60_exceptions.md R256 says so, and then changes nothing else. -/
def Obligations.StateGateIsTheTable : Prop :=
  ∀ (i : Instr) (s : State), i.wellFormed = true → s.video.firstFrame = 0#32 →
    (exec i s = .next (s.raiseError .state) ↔ gateCloses s i)

/-- Errors are precise: a command that ends in an error changes nothing but `ERR`, the code's bit of `ERRLOG` and
the two results, which are 0 (60_exceptions.md R262); the one exception is a `REMUX` that fails past its gate, with
the effects of 46_selector.md R214, and that it also sets the code's bit of `ERRLOG` is the model's reading of
10_state.md R23 (log 19). A command that succeeds leaves `ERRLOG` alone, but for `TEARDOWN`, which clears it
(47_session.md R240; 10_state.md R23). -/
def Obligations.ErrorsArePrecise : Prop :=
  ∀ (i : Instr) (s t : State), exec i s = .next t →
    (t.err ≠ .ok → (i ≠ .remux ∨ s.remuxGate = false) →
      t = { s with err := t.err, errlog := s.errlog ||| (1#32 <<< t.err.code.toNat), res0 := 0#64,
                   res1 := 0#64 }) ∧
    (t.err ≠ .ok → i = .remux → s.remuxGate = true →
      t.outWr = 0#32 ∧ t.outPkts = 0#32 ∧ t.outValid = false ∧ t.session = .failed ∧ t.bwValid = false ∧
        t.errlog = s.errlog ||| (1#32 <<< t.err.code.toNat) ∧ t.res0 = 0#64 ∧ t.res1 = 0#64) ∧
    (t.err = .ok → t.errlog = if i = .teardown then 0#32 else s.errlog)

/-- No command but `RDREG` depends on what earlier commands reported: from two states that differ in `ERR`,
`ERRLOG`, `RES0` and `RES1` alone it ends the same way, in states that differ at most in the older bits of
`ERRLOG` (10_state.md R22, R23, R26; that a `REMUX` failing past its gate sets its bit is log 19). -/
def Obligations.EarlierReportsAreNoInput : Prop :=
  ∀ (i : Instr) (s t : State) (e : ErrCode) (log : Word32) (r0 r1 : Word64),
    (∀ reg, i ≠ .rdreg reg) → exec i s = .next t →
    exec i { s with err := e, errlog := log, res0 := r0, res1 := r1 } =
      .next { t with errlog := if t.err = .ok then (if i = .teardown then 0#32 else log)
                               else log ||| (1#32 <<< t.err.code.toNat) }

/-- Where 20_memory.md R64 and 93_implementation_defined.md U6 leave the result unspecified the model refuses, once
no error applies (log 6: the model's reading of those entries). -/
def Obligations.UnspecifiedOverlapsAreRefused : Prop :=
  (∀ (base bound : Word64) (s : State), base.toNat < 2 ^ 32 → bound.toNat < 2 ^ 32 →
    base.toNat + bound.toNat ≤ 2 ^ 32 → s.touchesSession base.toNat bound.toNat = true →
    exec (.bwInit base bound) s = .refused .regionOverlap) ∧
  (∀ (width : BitVec 8) (value : Word64) (s : State), s.bwValid = true → s.bw.Ok →
    s.bw.bitcnt.toNat + width.toNat ≤ 8 * s.bw.bound.toNat → s.writerTouchesSession = true →
    (width.toNat ≤ 32 → exec (.putBits width value) s = .refused .regionOverlap) ∧
    (width.toNat ≤ 64 → exec (.putBits64 width value) s = .refused .regionOverlap)) ∧
  (∀ s : State, s.bwValid = true → s.bw.Ok → s.writerTouchesSession = true →
    exec .bwFlush s = .refused .regionOverlap) ∧
  (∀ (dst counter : Word64) (s : State), dst.toNat + 188 ≤ 2 ^ 32 → s.touchesSession dst.toNat 188 = true →
    exec (.pat dst counter) s = .refused .regionOverlap ∧
    exec (.pmt dst counter) s = .refused .regionOverlap ∧
    ∀ (pusi needPcr disc : Bool) (cc pid time payload : Word64), payload.toNat < 2 ^ 32 →
      (needPcr = true → (ticks27M time).isSome = true) →
      exec (.tsHdr pusi needPcr disc dst cc pid time payload) s = .refused .regionOverlap) ∧
  (∀ (sid : BitVec 8) (dst bound payload pts dts : Word64) (s : State) (p d : Int), dst.toNat < 2 ^ 32 →
    bound.toNat < 2 ^ 32 → payload.toNat < 2 ^ 32 → dst.toNat + bound.toNat ≤ 2 ^ 32 → finite pts = true →
    finite dts = true → ticks90 s.bias pts = some p → ticks90 s.bias dts = some d →
    (pesHeader payload.toNat p d sid.toNat).length ≤ bound.toNat →
    s.touchesSession dst.toNat bound.toNat = true →
    exec (.pesHdr sid dst bound payload pts dts) s = .refused .regionOverlap) ∧
  (∀ (pcr track : Bool) (src size pts dts sid pid : Word64) (s : State) (p d : Int), s.session = .ready →
    src.toNat < 2 ^ 32 → size.toNat < 2 ^ 32 → src.toNat + size.toNat ≤ 2 ^ 32 → finite pts = true →
    finite dts = true → ticks90 s.bias pts = some p → ticks90 s.bias dts = some d →
    (pcr = true → (ticks27M dts).isSome = true) →
    let data := pesHeader size.toNat p d (sid.toNat % 256) ++ s.mem.readBytes src.toNat size.toNat
    let n := packetCount data.length pcr
    s.outWr.toNat + 188 * n ≤ s.outCap.toNat → s.outBase.toNat + s.outCap.toNat ≤ 2 ^ 32 →
    regionsOverlap src.toNat size.toNat (s.outBase.toNat + s.outWr.toNat) (188 * n) = true →
    exec (.pack pcr track src size pts dts sid pid) s = .refused .regionOverlap) ∧
  (∀ (t0 : TrackId) (src size : Word64) (s : State), s.session = .ready → src.toNat < 2 ^ 32 →
    size.toNat < 2 ^ 32 → src.toNat + size.toNat ≤ 2 ^ 32 →
    let tr := s.track t0
    tr.nFrames.toNat < 1000 → tr.wrCur.toNat + size.toNat ≤ tr.tbufCap.toNat →
    tr.tbufBase.toNat + tr.tbufCap.toNat ≤ 2 ^ 32 → finite tr.tsNext = true →
    regionsOverlap src.toNat size.toNat (tr.tbufBase.toNat + tr.wrCur.toNat) size.toNat = true →
    (∀ (track key : Bool) (pts dts : Word64), t0 = .ofBit track → finite pts = true → finite dts = true →
      exec (.append track key src size pts dts) s = .refused .regionOverlap) ∧
    (t0 = .video → ∀ key, exec (.acceptV key src size 0#64) s = .refused .regionOverlap) ∧
    (t0 = .audio → exec (.acceptA src size 0#64) s = .refused .regionOverlap))

/-! ## The whole machine -/

/-- A step from a state with canonical memory, reachable or not, leaves canonical memory (log 4, 20_memory.md
R60). -/
def Obligations.StepKeepsMemoryCanonical : Prop :=
  ∀ s t : State, s.mem.wf = true → step s = .next t → t.mem.wf = true

/-- The block's invariant (the legal configuration, the bit writer's and the tracks' invariants, the output
position a whole number of packets inside its region, regions that a session may have, the sequencer idle)
is kept by every step (10_state.md R25, R33, R34, R37, R39; 46_selector.md R215). -/
def Obligations.StepKeepsTheGoodState : Prop :=
  ∀ s t : State, s.Ok → step s = .next t → t.Ok

/-- A step from a good state never faults: no access falls outside `M`, and every pass ends
(60_exceptions.md R258, 46_selector.md R211). -/
def Obligations.GoodStatesNeverFault : Prop :=
  ∀ s : State, s.Ok → noFault (step s)

/-- Whatever `M` holds after hardware reset and whatever words the host sends, no run from reset faults
(60_exceptions.md R258, 46_selector.md R211). -/
def Obligations.RunsFromResetNeverFault : Prop :=
  ∀ (contents : Memory) (ws : List PortWord) (n : Nat), contents.wf = true →
    safeRun n ((State.hardwareReset contents).send ws)

/-- A command stores to no byte outside the region that 20_memory.md R61 lists for it, computed from its operands
and the state before it: 14 or 19 bytes for `PES_HDR`, its packets for `PACK`, for `REMUX` the bytes up to the
`OUT_WR` where its pass ends, which is the `OUT_WR` that a successful `REMUX` leaves. The commands listed with no
region leave every byte as it was. -/
def Obligations.WritesStayInTheListedRegion : Prop :=
  ∀ (i : Instr) (s t : State), s.Ok → exec i s = .next t →
    Memory.SameOutside s.mem t.mem (footprint s i).1 (footprint s i).2 ∧
    (i = .remux → t.err = .ok → (footprint s i).2 = t.outWr.toNat)

/-- What a successful `REMUX` from a good state does, turn by turn (46_selector.md R206 to R210, R213): the tables,
then a turn of the video track if it has a frame, then turns, each of the track whose turn it is, until no track has
a frame left. `turnOf` and `turnEnds` say what a turn is: the effective times under `REPEAT` and `HAS_DTS`, the batch
of audio frames, the frame bytes, the stream id and PID, the cursors. The phases, inside the one step, are those of
R215 (log 10). -/
def Obligations.RemuxTakesTheTurnsInOrder : Prop :=
  ∀ s t : State, s.Ok → exec .remux s = .next t → t.err = .ok →
    ∃ (tables lead last : State) (turns : List TrackId),
      Memory.Stored s.mem tables.mem s.outBase.toNat
        (patPacket s s.psiCc.toNat ++ pmtPacket s s.psiCc.toNat) ∧
      tables = { s with mem := tables.mem, outWr := 376#32, outPkts := 2#32, outValid := false,
                        psiCc := s.psiCc + 1#4, phase := .lead } ∧
      (hasFrame s .video → turnEnds .video tables lead) ∧ (¬ hasFrame s .video → lead = tables) ∧
      turnsLead turns { lead with phase := .select } last ∧
      ¬ hasFrame last .video ∧ ¬ hasFrame last .audio ∧
      t = { last with outValid := true, bwValid := false, phase := .idle, err := .ok,
                      res0 := last.outWr.setWidth 64, res1 := last.outPkts.setWidth 64 }

end Statements
end

