-- ==== Sys2Proof/Laws/BitStrings.lean ====
section
/-! SUPPORT. Lengths of the byte strings built from bit fields (00_scope.md R11). -/

namespace Sys2Proof.Machine

@[simp] theorem length_beBytes (n v : Nat) : (beBytes n v).length = n := by
  induction n generalizing v with
  | zero => rfl
  | succ n ih => simp [beBytes, ih]

@[simp] theorem length_packFields (fs : List BitField) :
    (packFields fs).length = fieldsWidth fs / 8 := by simp [packFields]

theorem fieldsWidth_append (fs gs : List BitField) :
    fieldsWidth (fs ++ gs) = fieldsWidth fs + fieldsWidth gs := by
  induction fs with
  | nil => simp [fieldsWidth]
  | cons f fs ih => simp [fieldsWidth, ih]; omega

theorem fieldsValue_append (acc : Nat) (fs gs : List BitField) :
    fieldsValue acc (fs ++ gs) = fieldsValue (fieldsValue acc fs) gs := by
  induction fs generalizing acc with
  | nil => rfl
  | cons f fs ih => simp [fieldsValue, ih]

end Sys2Proof.Machine
end

