-- ==== Sys2Proof/Laws/Memory.lean ====
section
/-! SUPPORT. What the memory operations do: a write changes exactly the bytes it stores, and keeps the
canonical form (20_memory.md R60, R67, R68). -/

namespace Sys2Proof.Machine

/-! ## Reading -/

theorem lookup_cellsFrom (a x : Nat) (bs : List Byte) :
    (List.lookup x (cellsFrom a bs)).getD Config.unwrittenByte =
      if a ≤ x ∧ x < a + bs.length then bs.getD (x - a) Config.unwrittenByte else Config.unwrittenByte := by
  induction bs generalizing a with
  | nil => simp [cellsFrom]
  | cons b bs ih =>
    by_cases hx : x = a
    · subst hx
      by_cases hb : b = Config.unwrittenByte
      · simp only [cellsFrom, if_pos hb, ih]
        simp [hb]
      · simp [cellsFrom, if_neg hb]
    · have hne : (x == a) = false := by simpa using hx
      have hstep : (List.lookup x (cellsFrom a (b :: bs))) = List.lookup x (cellsFrom (a + 1) bs) := by
        by_cases hb : b = Config.unwrittenByte
        · simp [cellsFrom, if_pos hb]
        · simp [cellsFrom, if_neg hb, List.lookup_cons, hne]
      rw [hstep, ih]
      by_cases h : a + 1 ≤ x ∧ x < a + 1 + bs.length
      · have h' : a ≤ x ∧ x < a + (b :: bs).length := by simp; omega
        rw [if_pos h, if_pos h']
        obtain ⟨k, rfl⟩ : ∃ k, x = a + 1 + k := ⟨x - (a + 1), by omega⟩
        have e1 : a + 1 + k - (a + 1) = k := by omega
        have e2 : a + 1 + k - a = k + 1 := by omega
        rw [e1, e2]; simp
      · have h' : ¬ (a ≤ x ∧ x < a + (b :: bs).length) := by simp; omega
        rw [if_neg h, if_neg h']

theorem lookup_cellsFrom_outside (a x : Nat) (bs : List Byte) (h : ¬ (a ≤ x ∧ x < a + bs.length)) :
    List.lookup x (cellsFrom a bs) = none := by
  induction bs generalizing a with
  | nil => simp [cellsFrom]
  | cons b bs ih =>
    simp only [List.length_cons] at h
    have hrest : List.lookup x (cellsFrom (a + 1) bs) = none := ih (a + 1) (by omega)
    have hne : (x == a) = false := by simp; omega
    by_cases hb : b = Config.unwrittenByte
    · simp [cellsFrom, if_pos hb, hrest]
    · simp [cellsFrom, if_neg hb, List.lookup_cons, hne, hrest]

theorem lookup_filter_pos (m : Memory) (p : Nat → Bool) (x : Nat) (h : p x = true) :
    List.lookup x (m.filter (fun c => p c.1)) = List.lookup x m := by
  induction m with
  | nil => rfl
  | cons c m ih =>
    obtain ⟨k, v⟩ := c
    by_cases hk : x = k
    · subst hk; simp [h]
    · have hne : (x == k) = false := by simpa using hk
      by_cases hp : p k = true
      · simp [hp, List.lookup_cons, hne, ih]
      · simp [hp, List.lookup_cons, hne, ih]

theorem lookup_filter_neg (m : Memory) (p : Nat → Bool) (x : Nat) (h : p x = false) :
    List.lookup x (m.filter (fun c => p c.1)) = none := by
  induction m with
  | nil => rfl
  | cons c m ih =>
    obtain ⟨k, v⟩ := c
    by_cases hp : p k = true
    · have hne : (x == k) = false := by
        simp only [beq_eq_false_iff_ne]; rintro rfl; simp [h] at hp
      simp [hp, List.lookup_cons, hne, ih]
    · simp [hp, ih]

/-- Every byte after a store: the stored ones, and all others as before. It holds for any memory,
canonical or not. -/
theorem Memory.read_writeBytes (m : Memory) (a x : Nat) (bs : List Byte) :
    (m.writeBytes a bs).read x =
      if a ≤ x ∧ x < a + bs.length then bs.getD (x - a) Config.unwrittenByte else m.read x := by
  have happ : ∀ (l₁ l₂ : Memory), List.lookup x (l₁ ++ l₂) = (List.lookup x l₁).or (List.lookup x l₂) := by
    intro l₁ l₂; exact List.lookup_append
  unfold Memory.read Memory.writeBytes
  rw [happ, happ]
  by_cases h : a ≤ x ∧ x < a + bs.length
  · rw [if_pos h, lookup_filter_neg m (fun k => decide (k < a)) x (by simp; omega),
      lookup_filter_neg m (fun k => decide (a + bs.length ≤ k)) x (by simp; omega)]
    have := lookup_cellsFrom a x bs
    rw [if_pos h] at this
    simpa using this
  · rw [if_neg h, lookup_cellsFrom_outside a x bs h]
    by_cases hx : x < a
    · rw [lookup_filter_pos m (fun k => decide (k < a)) x (by simpa using hx),
        lookup_filter_neg m (fun k => decide (a + bs.length ≤ k)) x (by simp; omega)]
      simp
    · rw [lookup_filter_neg m (fun k => decide (k < a)) x (by simpa using hx),
        lookup_filter_pos m (fun k => decide (a + bs.length ≤ k)) x (by simp; omega)]
      simp

theorem Memory.read_writeBytes_outside (m : Memory) {a x : Nat} {bs : List Byte}
    (h : x < a ∨ a + bs.length ≤ x) : (m.writeBytes a bs).read x = m.read x := by
  rw [Memory.read_writeBytes, if_neg (by omega)]

@[simp] theorem Memory.length_readBytes (m : Memory) (a n : Nat) : (m.readBytes a n).length = n := by
  simp [Memory.readBytes]

theorem Memory.getD_readBytes (m : Memory) (a n i : Nat) (d : Byte) (h : i < n) :
    (m.readBytes a n).getD i d = m.read (a + i) := by
  simp [Memory.readBytes, List.getD, h]

/-- Reading back what was just stored. -/
theorem Memory.readBytes_writeBytes (m : Memory) (a : Nat) (bs : List Byte) :
    (m.writeBytes a bs).readBytes a bs.length = bs := by
  apply List.ext_getElem (by simp)
  intro i h₁ h₂
  have e : (m.writeBytes a bs).read (a + i) = bs[i] := by
    rw [Memory.read_writeBytes, if_pos (by omega)]
    simp [h₂]
  simp [Memory.readBytes, e]

/-- A range that the store does not meet reads as before. -/
theorem Memory.readBytes_writeBytes_outside (m : Memory) {a b n : Nat} {bs : List Byte}
    (h : b + n ≤ a ∨ a + bs.length ≤ b) : (m.writeBytes a bs).readBytes b n = m.readBytes b n := by
  unfold Memory.readBytes
  apply List.map_congr_left
  intro i hi
  have : i < n := List.mem_range.mp hi
  exact Memory.read_writeBytes_outside m (by omega)

/-! ## The canonical form -/

/-- The canonical form as three facts about a list. -/
theorem Memory.wf_iff (m : Memory) :
    m.wf = true ↔
      m.Pairwise (fun c d => c.1 < d.1) ∧
        ∀ c ∈ m, c.1 < Config.memSize ∧ c.2 ≠ Config.unwrittenByte := by
  induction m with
  | nil => simp [Memory.wf]
  | cons c m ih =>
    cases m with
    | nil => simp [Memory.wf]
    | cons d m =>
      have hw : Memory.wf (c :: d :: m) =
          (decide (c.1 < d.1) && c.2 != Config.unwrittenByte && Memory.wf (d :: m)) := rfl
      rw [hw, Bool.and_eq_true, Bool.and_eq_true, ih]
      constructor
      · rintro ⟨⟨h1, h2⟩, h3, h4⟩
        have h1 : c.1 < d.1 := by simpa using h1
        have h2 : c.2 ≠ Config.unwrittenByte := by simpa using h2
        refine ⟨List.pairwise_cons.mpr ⟨?_, h3⟩, ?_⟩
        · intro e he
          rcases List.mem_cons.mp he with rfl | he
          · exact h1
          · exact lt_trans h1 ((List.pairwise_cons.mp h3).1 e he)
        · intro e he
          rcases List.mem_cons.mp he with rfl | he
          · exact ⟨lt_trans h1 (h4 d (by simp)).1, h2⟩
          · exact h4 e he
      · rintro ⟨h1, h2⟩
        have hp := List.pairwise_cons.mp h1
        exact ⟨⟨by simpa using hp.1 d (by simp), by simpa using (h2 c (by simp)).2⟩, hp.2,
          fun e he => h2 e (List.mem_cons_of_mem _ he)⟩

theorem mem_cellsFrom {a : Nat} {bs : List Byte} {c : Host.Cell} (h : c ∈ cellsFrom a bs) :
    a ≤ c.1 ∧ c.1 < a + bs.length ∧ c.2 ≠ Config.unwrittenByte := by
  induction bs generalizing a with
  | nil => simp [cellsFrom] at h
  | cons b bs ih =>
    simp only [List.length_cons]
    by_cases hb : b = Config.unwrittenByte
    · rw [cellsFrom, if_pos hb] at h
      obtain ⟨h1, h2, h3⟩ := ih h
      exact ⟨by omega, by omega, h3⟩
    · rw [cellsFrom, if_neg hb] at h
      rcases List.mem_cons.mp h with rfl | h
      · exact ⟨by simp, by simp, hb⟩
      · obtain ⟨h1, h2, h3⟩ := ih h
        exact ⟨by omega, by omega, h3⟩

theorem pairwise_cellsFrom (a : Nat) (bs : List Byte) :
    (cellsFrom a bs).Pairwise (fun c d => c.1 < d.1) := by
  induction bs generalizing a with
  | nil => simp [cellsFrom]
  | cons b bs ih =>
    by_cases hb : b = Config.unwrittenByte
    · rw [cellsFrom, if_pos hb]; exact ih (a + 1)
    · rw [cellsFrom, if_neg hb]
      exact List.pairwise_cons.mpr ⟨fun c hc => by have := mem_cellsFrom hc; simp; omega, ih (a + 1)⟩

/-- A store inside `M` keeps the canonical form. -/
theorem Memory.wf_writeBytes {m : Memory} (hm : m.wf = true) {a : Nat} {bs : List Byte}
    (h : a + bs.length ≤ Config.memSize) : (m.writeBytes a bs).wf = true := by
  rw [Memory.wf_iff] at hm ⊢
  obtain ⟨hp, ha⟩ := hm
  unfold Memory.writeBytes
  refine ⟨?_, ?_⟩
  · rw [List.pairwise_append, List.pairwise_append]
    refine ⟨⟨hp.filter _, pairwise_cellsFrom a bs, ?_⟩, hp.filter _, ?_⟩
    · intro c hc d hd
      have h1 : c.1 < a := by simpa using (List.mem_filter.mp hc).2
      have := mem_cellsFrom hd; omega
    · intro c hc d hd
      have h2 : a + bs.length ≤ d.1 := by simpa using (List.mem_filter.mp hd).2
      rcases List.mem_append.mp hc with hc | hc
      · have h1 : c.1 < a := by simpa using (List.mem_filter.mp hc).2
        omega
      · have := mem_cellsFrom hc; omega
  · intro c hc
    rcases List.mem_append.mp hc with hc | hc
    · rcases List.mem_append.mp hc with hc | hc
      · exact ha c (List.mem_filter.mp hc).1
      · have := mem_cellsFrom hc; exact ⟨by omega, this.2.2⟩
    · exact ha c (List.mem_filter.mp hc).1

/-- The memory after hardware reset, nothing listed, is canonical. -/
theorem Memory.wf_nil : Memory.wf [] = true := rfl

@[simp] theorem State.reset_mem_wf : State.reset.mem.wf = true := rfl

/-! ## `State.load` and `State.store` -/

/-- All a load can answer. -/
theorem State.load_cases (s : State) (a n : Nat) :
    (a + n ≤ Config.memSize ∧ s.load a n = .ok (s.mem.readBytes a n)) ∨
      (Config.memSize < a + n ∧ s.load a n = .fault .noSuchAddress) := by
  unfold State.load inMemory
  by_cases h : a + n ≤ Config.memSize
  · exact .inl ⟨h, by simp [h]⟩
  · exact .inr ⟨by omega, by simp [h]⟩

/-- All a store can answer. -/
theorem State.store_cases (s : State) (a : Nat) (bs : List Byte) :
    (a + bs.length ≤ Config.memSize ∧ s.store a bs = .ok { s with mem := s.mem.writeBytes a bs }) ∨
      (Config.memSize < a + bs.length ∧ s.store a bs = .fault .noSuchAddress) := by
  unfold State.store inMemory
  by_cases h : a + bs.length ≤ Config.memSize
  · exact .inl ⟨h, by simp [h]⟩
  · exact .inr ⟨by omega, by simp [h]⟩

theorem State.store_ok {s s' : State} {a : Nat} {bs : List Byte} (h : s.store a bs = .ok s') :
    a + bs.length ≤ Config.memSize ∧ s' = { s with mem := s.mem.writeBytes a bs } := by
  rcases s.store_cases a bs with ⟨h1, h2⟩ | ⟨_, h2⟩
  · rw [h2] at h; exact ⟨h1, (Result.ok.inj h).symm⟩
  · rw [h2] at h; cases h

theorem State.load_ok {s : State} {a n : Nat} {bs : List Byte} (h : s.load a n = .ok bs) :
    a + n ≤ Config.memSize ∧ bs = s.mem.readBytes a n := by
  rcases s.load_cases a n with ⟨h1, h2⟩ | ⟨_, h2⟩
  · rw [h2] at h; exact ⟨h1, (Result.ok.inj h).symm⟩
  · rw [h2] at h; cases h

/-- A store that answers keeps the canonical form. -/
theorem State.store_wf {s s' : State} {a : Nat} {bs : List Byte} (hm : s.mem.wf = true)
    (h : s.store a bs = .ok s') : s'.mem.wf = true := by
  obtain ⟨h1, rfl⟩ := State.store_ok h
  exact Memory.wf_writeBytes hm h1

theorem State.store_not_err (s : State) (a : Nat) (bs : List Byte) (e : ErrCode) :
    s.store a bs ≠ .err e := by
  rcases s.store_cases a bs with ⟨_, h⟩ | ⟨_, h⟩ <;> simp [h]

end Sys2Proof.Machine
end

