-- ==== Sys2Proof/Laws/Results.lean ====
section
/-! SUPPORT. What the sequencing of a command's work can answer (00_scope.md R11, 60_exceptions.md R262). -/

namespace Sys2Proof.Machine

@[simp] theorem Result.bind_ok {α β : Type} (a : α) (k : α → Result β) : (Result.ok a).bind k = k a := rfl

@[simp] theorem Result.bind_err {α β : Type} (e : ErrCode) (k : α → Result β) :
    (Result.err e).bind k = .err e := rfl

@[simp] theorem Result.bind_fault {α β : Type} (f : Fault) (k : α → Result β) :
    (Result.fault f).bind k = .fault f := rfl

theorem Result.bind_eq_ok {α β : Type} {r : Result α} {k : α → Result β} {b : β} :
    r.bind k = .ok b ↔ ∃ a, r = .ok a ∧ k a = .ok b := by
  cases r <;> simp

theorem Result.bind_eq_err {α β : Type} {r : Result α} {k : α → Result β} {e : ErrCode} :
    r.bind k = .err e ↔ r = .err e ∨ ∃ a, r = .ok a ∧ k a = .err e := by
  cases r <;> simp

theorem Result.bind_eq_fault {α β : Type} {r : Result α} {k : α → Result β} {f : Fault} :
    r.bind k = .fault f ↔ r = .fault f ∨ ∃ a, r = .ok a ∧ k a = .fault f := by
  cases r <;> simp

@[simp] theorem Result.ofOption_some {α : Type} (e : ErrCode) (a : α) :
    Result.ofOption e (some a) = .ok a := rfl

@[simp] theorem Result.ofOption_none {α : Type} (e : ErrCode) :
    Result.ofOption e (none : Option α) = .err e := rfl

theorem Result.ofOption_eq_ok {α : Type} {e : ErrCode} {o : Option α} {a : α} :
    Result.ofOption e o = .ok a ↔ o = some a := by cases o <;> simp [Result.ofOption]

@[simp] theorem conclude_ok {α : Type} (s : State) (a : α) (k : α → Out State) :
    conclude s (.ok a) k = k a := rfl

@[simp] theorem conclude_err {α : Type} (s : State) (e : ErrCode) (k : α → Out State) :
    conclude s (.err e) k = .next (s.raiseError e) := rfl

@[simp] theorem conclude_fault {α : Type} (s : State) (f : Fault) (k : α → Out State) :
    conclude s (.fault f) k = .fault f := rfl

/-- A command that answers a next state either ended in an error, with its starting state else
unchanged, or its work gave a value. -/
theorem conclude_next {α : Type} {s t : State} {r : Result α} {k : α → Out State}
    (h : conclude s r k = .next t) :
    (∃ a, r = .ok a ∧ k a = .next t) ∨ (∃ e, r = .err e ∧ t = s.raiseError e) := by
  cases r with
  | ok a => exact .inl ⟨a, rfl, h⟩
  | err e => exact .inr ⟨e, rfl, (Host.Outcome.next.inj h).symm⟩
  | fault f => cases h

theorem raise_next {s t : State} {e : ErrCode} (h : raise e s = .next t) : t = s.raiseError e :=
  (Host.Outcome.next.inj h).symm

theorem succeed_next {s t : State} {r0 r1 : Word64} (h : succeed r0 r1 s = .next t) :
    t = s.complete r0 r1 := (Host.Outcome.next.inj h).symm

/-- No session, no overlap to refuse (20_memory.md R64). -/
theorem State.touchesSession_off {s : State} (h : s.session = .off) (a n : Nat) :
    s.touchesSession a n = false := by simp [State.touchesSession, h]

theorem regionsOverlap_iff (a n b m : Nat) :
    regionsOverlap a n b m = true ↔ ∃ x, (a ≤ x ∧ x < a + n) ∧ (b ≤ x ∧ x < b + m) := by
  simp only [regionsOverlap, decide_eq_true_eq]
  constructor
  · intro h; exact ⟨max a b, by omega, by omega⟩
  · rintro ⟨x, h1, h2⟩; omega

theorem regionOk_iff (a n : Word64) :
    regionOk a n = true ↔ a.toNat < 2 ^ 32 ∧ n.toNat < 2 ^ 32 ∧ a.toNat + n.toNat ≤ Config.memSize := by
  simp [regionOk, fits32, inMemory, and_assoc]

theorem packetRoomOk_iff (a : Word64) :
    packetRoomOk a = true ↔ a.toNat < 2 ^ 32 ∧ a.toNat + 188 ≤ Config.memSize := by
  unfold packetRoomOk fits32 inMemory Config.tsPacket
  rw [Bool.and_eq_true, decide_eq_true_iff, decide_eq_true_iff]

end Sys2Proof.Machine
end

