-- ==== Sys2Proof/Laws/State.lean ====
section
/-! SUPPORT. One lemma for each field of the state and each named update, so that no proof unfolds a record
update. -/

namespace Sys2Proof.Machine

/-! ## `State.raiseError` (60_exceptions.md R262) -/

@[simp] theorem State.raiseError_session (s : State) (e : ErrCode) : (s.raiseError e).session = s.session := rfl
@[simp] theorem State.raiseError_bwValid (s : State) (e : ErrCode) : (s.raiseError e).bwValid = s.bwValid := rfl
@[simp] theorem State.raiseError_outValid (s : State) (e : ErrCode) : (s.raiseError e).outValid = s.outValid := rfl
@[simp] theorem State.raiseError_err (s : State) (e : ErrCode) : (s.raiseError e).err = e := rfl
@[simp] theorem State.raiseError_errlog (s : State) (e : ErrCode) : (s.raiseError e).errlog = logError s.errlog e := rfl
@[simp] theorem State.raiseError_res0 (s : State) (e : ErrCode) : (s.raiseError e).res0 = 0#64 := rfl
@[simp] theorem State.raiseError_res1 (s : State) (e : ErrCode) : (s.raiseError e).res1 = 0#64 := rfl
@[simp] theorem State.raiseError_pmtPid (s : State) (e : ErrCode) : (s.raiseError e).pmtPid = s.pmtPid := rfl
@[simp] theorem State.raiseError_tsid (s : State) (e : ErrCode) : (s.raiseError e).tsid = s.tsid := rfl
@[simp] theorem State.raiseError_bias (s : State) (e : ErrCode) : (s.raiseError e).bias = s.bias := rfl
@[simp] theorem State.raiseError_audioBatch (s : State) (e : ErrCode) : (s.raiseError e).audioBatch = s.audioBatch := rfl
@[simp] theorem State.raiseError_psiCc (s : State) (e : ErrCode) : (s.raiseError e).psiCc = s.psiCc := rfl
@[simp] theorem State.raiseError_outBase (s : State) (e : ErrCode) : (s.raiseError e).outBase = s.outBase := rfl
@[simp] theorem State.raiseError_outCap (s : State) (e : ErrCode) : (s.raiseError e).outCap = s.outCap := rfl
@[simp] theorem State.raiseError_outWr (s : State) (e : ErrCode) : (s.raiseError e).outWr = s.outWr := rfl
@[simp] theorem State.raiseError_outPkts (s : State) (e : ErrCode) : (s.raiseError e).outPkts = s.outPkts := rfl
@[simp] theorem State.raiseError_bw (s : State) (e : ErrCode) : (s.raiseError e).bw = s.bw := rfl
@[simp] theorem State.raiseError_video (s : State) (e : ErrCode) : (s.raiseError e).video = s.video := rfl
@[simp] theorem State.raiseError_audio (s : State) (e : ErrCode) : (s.raiseError e).audio = s.audio := rfl
@[simp] theorem State.raiseError_phase (s : State) (e : ErrCode) : (s.raiseError e).phase = s.phase := rfl
@[simp] theorem State.raiseError_mem (s : State) (e : ErrCode) : (s.raiseError e).mem = s.mem := rfl
@[simp] theorem State.raiseError_port (s : State) (e : ErrCode) : (s.raiseError e).port = s.port := rfl

/-! ## `State.complete` -/

@[simp] theorem State.complete_session (s : State) (r0 r1 : Word64) : (s.complete r0 r1).session = s.session := rfl
@[simp] theorem State.complete_bwValid (s : State) (r0 r1 : Word64) : (s.complete r0 r1).bwValid = s.bwValid := rfl
@[simp] theorem State.complete_outValid (s : State) (r0 r1 : Word64) : (s.complete r0 r1).outValid = s.outValid := rfl
@[simp] theorem State.complete_err (s : State) (r0 r1 : Word64) : (s.complete r0 r1).err = .ok := rfl
@[simp] theorem State.complete_errlog (s : State) (r0 r1 : Word64) : (s.complete r0 r1).errlog = s.errlog := rfl
@[simp] theorem State.complete_res0 (s : State) (r0 r1 : Word64) : (s.complete r0 r1).res0 = r0 := rfl
@[simp] theorem State.complete_res1 (s : State) (r0 r1 : Word64) : (s.complete r0 r1).res1 = r1 := rfl
@[simp] theorem State.complete_pmtPid (s : State) (r0 r1 : Word64) : (s.complete r0 r1).pmtPid = s.pmtPid := rfl
@[simp] theorem State.complete_tsid (s : State) (r0 r1 : Word64) : (s.complete r0 r1).tsid = s.tsid := rfl
@[simp] theorem State.complete_bias (s : State) (r0 r1 : Word64) : (s.complete r0 r1).bias = s.bias := rfl
@[simp] theorem State.complete_audioBatch (s : State) (r0 r1 : Word64) : (s.complete r0 r1).audioBatch = s.audioBatch := rfl
@[simp] theorem State.complete_psiCc (s : State) (r0 r1 : Word64) : (s.complete r0 r1).psiCc = s.psiCc := rfl
@[simp] theorem State.complete_outBase (s : State) (r0 r1 : Word64) : (s.complete r0 r1).outBase = s.outBase := rfl
@[simp] theorem State.complete_outCap (s : State) (r0 r1 : Word64) : (s.complete r0 r1).outCap = s.outCap := rfl
@[simp] theorem State.complete_outWr (s : State) (r0 r1 : Word64) : (s.complete r0 r1).outWr = s.outWr := rfl
@[simp] theorem State.complete_outPkts (s : State) (r0 r1 : Word64) : (s.complete r0 r1).outPkts = s.outPkts := rfl
@[simp] theorem State.complete_bw (s : State) (r0 r1 : Word64) : (s.complete r0 r1).bw = s.bw := rfl
@[simp] theorem State.complete_video (s : State) (r0 r1 : Word64) : (s.complete r0 r1).video = s.video := rfl
@[simp] theorem State.complete_audio (s : State) (r0 r1 : Word64) : (s.complete r0 r1).audio = s.audio := rfl
@[simp] theorem State.complete_phase (s : State) (r0 r1 : Word64) : (s.complete r0 r1).phase = s.phase := rfl
@[simp] theorem State.complete_mem (s : State) (r0 r1 : Word64) : (s.complete r0 r1).mem = s.mem := rfl
@[simp] theorem State.complete_port (s : State) (r0 r1 : Word64) : (s.complete r0 r1).port = s.port := rfl

/-! ## `State.setPort` -/

@[simp] theorem State.setPort_session (s : State) (ws : List PortWord) : (s.setPort ws).session = s.session := rfl
@[simp] theorem State.setPort_bwValid (s : State) (ws : List PortWord) : (s.setPort ws).bwValid = s.bwValid := rfl
@[simp] theorem State.setPort_outValid (s : State) (ws : List PortWord) : (s.setPort ws).outValid = s.outValid := rfl
@[simp] theorem State.setPort_err (s : State) (ws : List PortWord) : (s.setPort ws).err = s.err := rfl
@[simp] theorem State.setPort_errlog (s : State) (ws : List PortWord) : (s.setPort ws).errlog = s.errlog := rfl
@[simp] theorem State.setPort_res0 (s : State) (ws : List PortWord) : (s.setPort ws).res0 = s.res0 := rfl
@[simp] theorem State.setPort_res1 (s : State) (ws : List PortWord) : (s.setPort ws).res1 = s.res1 := rfl
@[simp] theorem State.setPort_pmtPid (s : State) (ws : List PortWord) : (s.setPort ws).pmtPid = s.pmtPid := rfl
@[simp] theorem State.setPort_tsid (s : State) (ws : List PortWord) : (s.setPort ws).tsid = s.tsid := rfl
@[simp] theorem State.setPort_bias (s : State) (ws : List PortWord) : (s.setPort ws).bias = s.bias := rfl
@[simp] theorem State.setPort_audioBatch (s : State) (ws : List PortWord) : (s.setPort ws).audioBatch = s.audioBatch := rfl
@[simp] theorem State.setPort_psiCc (s : State) (ws : List PortWord) : (s.setPort ws).psiCc = s.psiCc := rfl
@[simp] theorem State.setPort_outBase (s : State) (ws : List PortWord) : (s.setPort ws).outBase = s.outBase := rfl
@[simp] theorem State.setPort_outCap (s : State) (ws : List PortWord) : (s.setPort ws).outCap = s.outCap := rfl
@[simp] theorem State.setPort_outWr (s : State) (ws : List PortWord) : (s.setPort ws).outWr = s.outWr := rfl
@[simp] theorem State.setPort_outPkts (s : State) (ws : List PortWord) : (s.setPort ws).outPkts = s.outPkts := rfl
@[simp] theorem State.setPort_bw (s : State) (ws : List PortWord) : (s.setPort ws).bw = s.bw := rfl
@[simp] theorem State.setPort_video (s : State) (ws : List PortWord) : (s.setPort ws).video = s.video := rfl
@[simp] theorem State.setPort_audio (s : State) (ws : List PortWord) : (s.setPort ws).audio = s.audio := rfl
@[simp] theorem State.setPort_phase (s : State) (ws : List PortWord) : (s.setPort ws).phase = s.phase := rfl
@[simp] theorem State.setPort_mem (s : State) (ws : List PortWord) : (s.setPort ws).mem = s.mem := rfl
@[simp] theorem State.setPort_port (s : State) (ws : List PortWord) : (s.setPort ws).port = ws := rfl

/-! ## `State.inPhase` and `State.releaseOutput` (46_selector.md R213 to R215) -/

@[simp] theorem State.inPhase_session (s : State) (p : Phase) : (s.inPhase p).session = s.session := rfl
@[simp] theorem State.inPhase_bwValid (s : State) (p : Phase) : (s.inPhase p).bwValid = s.bwValid := rfl
@[simp] theorem State.inPhase_outValid (s : State) (p : Phase) : (s.inPhase p).outValid = s.outValid := rfl
@[simp] theorem State.inPhase_err (s : State) (p : Phase) : (s.inPhase p).err = s.err := rfl
@[simp] theorem State.inPhase_errlog (s : State) (p : Phase) : (s.inPhase p).errlog = s.errlog := rfl
@[simp] theorem State.inPhase_res0 (s : State) (p : Phase) : (s.inPhase p).res0 = s.res0 := rfl
@[simp] theorem State.inPhase_res1 (s : State) (p : Phase) : (s.inPhase p).res1 = s.res1 := rfl
@[simp] theorem State.inPhase_pmtPid (s : State) (p : Phase) : (s.inPhase p).pmtPid = s.pmtPid := rfl
@[simp] theorem State.inPhase_tsid (s : State) (p : Phase) : (s.inPhase p).tsid = s.tsid := rfl
@[simp] theorem State.inPhase_bias (s : State) (p : Phase) : (s.inPhase p).bias = s.bias := rfl
@[simp] theorem State.inPhase_audioBatch (s : State) (p : Phase) : (s.inPhase p).audioBatch = s.audioBatch := rfl
@[simp] theorem State.inPhase_psiCc (s : State) (p : Phase) : (s.inPhase p).psiCc = s.psiCc := rfl
@[simp] theorem State.inPhase_outBase (s : State) (p : Phase) : (s.inPhase p).outBase = s.outBase := rfl
@[simp] theorem State.inPhase_outCap (s : State) (p : Phase) : (s.inPhase p).outCap = s.outCap := rfl
@[simp] theorem State.inPhase_outWr (s : State) (p : Phase) : (s.inPhase p).outWr = s.outWr := rfl
@[simp] theorem State.inPhase_outPkts (s : State) (p : Phase) : (s.inPhase p).outPkts = s.outPkts := rfl
@[simp] theorem State.inPhase_bw (s : State) (p : Phase) : (s.inPhase p).bw = s.bw := rfl
@[simp] theorem State.inPhase_video (s : State) (p : Phase) : (s.inPhase p).video = s.video := rfl
@[simp] theorem State.inPhase_audio (s : State) (p : Phase) : (s.inPhase p).audio = s.audio := rfl
@[simp] theorem State.inPhase_phase (s : State) (p : Phase) : (s.inPhase p).phase = p := rfl
@[simp] theorem State.inPhase_mem (s : State) (p : Phase) : (s.inPhase p).mem = s.mem := rfl
@[simp] theorem State.inPhase_port (s : State) (p : Phase) : (s.inPhase p).port = s.port := rfl

@[simp] theorem State.releaseOutput_session (s : State) : (s.releaseOutput).session = s.session := rfl
@[simp] theorem State.releaseOutput_bwValid (s : State) : (s.releaseOutput).bwValid = s.bwValid := rfl
@[simp] theorem State.releaseOutput_outValid (s : State) : (s.releaseOutput).outValid = false := rfl
@[simp] theorem State.releaseOutput_err (s : State) : (s.releaseOutput).err = s.err := rfl
@[simp] theorem State.releaseOutput_errlog (s : State) : (s.releaseOutput).errlog = s.errlog := rfl
@[simp] theorem State.releaseOutput_res0 (s : State) : (s.releaseOutput).res0 = s.res0 := rfl
@[simp] theorem State.releaseOutput_res1 (s : State) : (s.releaseOutput).res1 = s.res1 := rfl
@[simp] theorem State.releaseOutput_pmtPid (s : State) : (s.releaseOutput).pmtPid = s.pmtPid := rfl
@[simp] theorem State.releaseOutput_tsid (s : State) : (s.releaseOutput).tsid = s.tsid := rfl
@[simp] theorem State.releaseOutput_bias (s : State) : (s.releaseOutput).bias = s.bias := rfl
@[simp] theorem State.releaseOutput_audioBatch (s : State) : (s.releaseOutput).audioBatch = s.audioBatch := rfl
@[simp] theorem State.releaseOutput_psiCc (s : State) : (s.releaseOutput).psiCc = s.psiCc := rfl
@[simp] theorem State.releaseOutput_outBase (s : State) : (s.releaseOutput).outBase = s.outBase := rfl
@[simp] theorem State.releaseOutput_outCap (s : State) : (s.releaseOutput).outCap = s.outCap := rfl
@[simp] theorem State.releaseOutput_outWr (s : State) : (s.releaseOutput).outWr = 0#32 := rfl
@[simp] theorem State.releaseOutput_outPkts (s : State) : (s.releaseOutput).outPkts = 0#32 := rfl
@[simp] theorem State.releaseOutput_bw (s : State) : (s.releaseOutput).bw = s.bw := rfl
@[simp] theorem State.releaseOutput_video (s : State) : (s.releaseOutput).video = s.video := rfl
@[simp] theorem State.releaseOutput_audio (s : State) : (s.releaseOutput).audio = s.audio := rfl
@[simp] theorem State.releaseOutput_phase (s : State) : (s.releaseOutput).phase = s.phase := rfl
@[simp] theorem State.releaseOutput_mem (s : State) : (s.releaseOutput).mem = s.mem := rfl
@[simp] theorem State.releaseOutput_port (s : State) : (s.releaseOutput).port = s.port := rfl

/-! ## `State.setTrack` and `State.track` -/

@[simp] theorem State.setTrack_session (s : State) (t : TrackId) (tr : TrackState) :
    (s.setTrack t tr).session = s.session := by cases t <;> rfl
@[simp] theorem State.setTrack_bwValid (s : State) (t : TrackId) (tr : TrackState) :
    (s.setTrack t tr).bwValid = s.bwValid := by cases t <;> rfl
@[simp] theorem State.setTrack_outValid (s : State) (t : TrackId) (tr : TrackState) :
    (s.setTrack t tr).outValid = s.outValid := by cases t <;> rfl
@[simp] theorem State.setTrack_err (s : State) (t : TrackId) (tr : TrackState) :
    (s.setTrack t tr).err = s.err := by cases t <;> rfl
@[simp] theorem State.setTrack_errlog (s : State) (t : TrackId) (tr : TrackState) :
    (s.setTrack t tr).errlog = s.errlog := by cases t <;> rfl
@[simp] theorem State.setTrack_res0 (s : State) (t : TrackId) (tr : TrackState) :
    (s.setTrack t tr).res0 = s.res0 := by cases t <;> rfl
@[simp] theorem State.setTrack_res1 (s : State) (t : TrackId) (tr : TrackState) :
    (s.setTrack t tr).res1 = s.res1 := by cases t <;> rfl
@[simp] theorem State.setTrack_pmtPid (s : State) (t : TrackId) (tr : TrackState) :
    (s.setTrack t tr).pmtPid = s.pmtPid := by cases t <;> rfl
@[simp] theorem State.setTrack_tsid (s : State) (t : TrackId) (tr : TrackState) :
    (s.setTrack t tr).tsid = s.tsid := by cases t <;> rfl
@[simp] theorem State.setTrack_bias (s : State) (t : TrackId) (tr : TrackState) :
    (s.setTrack t tr).bias = s.bias := by cases t <;> rfl
@[simp] theorem State.setTrack_audioBatch (s : State) (t : TrackId) (tr : TrackState) :
    (s.setTrack t tr).audioBatch = s.audioBatch := by cases t <;> rfl
@[simp] theorem State.setTrack_psiCc (s : State) (t : TrackId) (tr : TrackState) :
    (s.setTrack t tr).psiCc = s.psiCc := by cases t <;> rfl
@[simp] theorem State.setTrack_outBase (s : State) (t : TrackId) (tr : TrackState) :
    (s.setTrack t tr).outBase = s.outBase := by cases t <;> rfl
@[simp] theorem State.setTrack_outCap (s : State) (t : TrackId) (tr : TrackState) :
    (s.setTrack t tr).outCap = s.outCap := by cases t <;> rfl
@[simp] theorem State.setTrack_outWr (s : State) (t : TrackId) (tr : TrackState) :
    (s.setTrack t tr).outWr = s.outWr := by cases t <;> rfl
@[simp] theorem State.setTrack_outPkts (s : State) (t : TrackId) (tr : TrackState) :
    (s.setTrack t tr).outPkts = s.outPkts := by cases t <;> rfl
@[simp] theorem State.setTrack_bw (s : State) (t : TrackId) (tr : TrackState) :
    (s.setTrack t tr).bw = s.bw := by cases t <;> rfl
@[simp] theorem State.setTrack_phase (s : State) (t : TrackId) (tr : TrackState) :
    (s.setTrack t tr).phase = s.phase := by cases t <;> rfl
@[simp] theorem State.setTrack_mem (s : State) (t : TrackId) (tr : TrackState) :
    (s.setTrack t tr).mem = s.mem := by cases t <;> rfl
@[simp] theorem State.setTrack_port (s : State) (t : TrackId) (tr : TrackState) :
    (s.setTrack t tr).port = s.port := by cases t <;> rfl
@[simp] theorem State.setTrack_video_video (s : State) (tr : TrackState) :
    (s.setTrack .video tr).video = tr := rfl
@[simp] theorem State.setTrack_video_audio (s : State) (tr : TrackState) :
    (s.setTrack .video tr).audio = s.audio := rfl
@[simp] theorem State.setTrack_audio_audio (s : State) (tr : TrackState) :
    (s.setTrack .audio tr).audio = tr := rfl
@[simp] theorem State.setTrack_audio_video (s : State) (tr : TrackState) :
    (s.setTrack .audio tr).video = s.video := rfl
@[simp] theorem State.track_video (s : State) : s.track .video = s.video := rfl
@[simp] theorem State.track_audio (s : State) : s.track .audio = s.audio := rfl
@[simp] theorem State.track_setTrack_same (s : State) (t : TrackId) (tr : TrackState) :
    (s.setTrack t tr).track t = tr := by cases t <;> rfl
theorem State.track_setTrack_other (s : State) {t u : TrackId} (h : u ≠ t) (tr : TrackState) :
    (s.setTrack t tr).track u = s.track u := by cases t <;> cases u <;> first | rfl | exact absurd rfl h
@[simp] theorem State.setTrack_track (s : State) (t : TrackId) : s.setTrack t (s.track t) = s := by
  cases t <;> rfl
@[simp] theorem State.setTrack_setTrack (s : State) (t : TrackId) (tr tr' : TrackState) :
    (s.setTrack t tr).setTrack t tr' = s.setTrack t tr' := by cases t <;> rfl

@[simp] theorem State.raiseError_track (s : State) (e : ErrCode) (t : TrackId) :
    (s.raiseError e).track t = s.track t := by cases t <;> rfl
@[simp] theorem State.complete_track (s : State) (r0 r1 : Word64) (t : TrackId) :
    (s.complete r0 r1).track t = s.track t := by cases t <;> rfl
@[simp] theorem State.setPort_track (s : State) (ws : List PortWord) (t : TrackId) :
    (s.setPort ws).track t = s.track t := by cases t <;> rfl
@[simp] theorem State.inPhase_track (s : State) (p : Phase) (t : TrackId) :
    (s.inPhase p).track t = s.track t := by cases t <;> rfl
@[simp] theorem State.releaseOutput_track (s : State) (t : TrackId) :
    (s.releaseOutput).track t = s.track t := by cases t <;> rfl

/-! ## Updates of one track -/

@[simp] theorem TrackState.emptied_codec (tr : TrackState) :
    (tr.emptied).codec = tr.codec := rfl
@[simp] theorem TrackState.emptied_nFrames (tr : TrackState) :
    (tr.emptied).nFrames = 0#32 := rfl
@[simp] theorem TrackState.emptied_infos (tr : TrackState) :
    (tr.emptied).infos = [] := rfl
@[simp] theorem TrackState.emptied_rate (tr : TrackState) :
    (tr.emptied).rate = tr.rate := rfl
@[simp] theorem TrackState.emptied_channels (tr : TrackState) :
    (tr.emptied).channels = tr.channels := rfl
@[simp] theorem TrackState.emptied_repeatSeg (tr : TrackState) :
    (tr.emptied).repeatSeg = tr.repeatSeg := rfl
@[simp] theorem TrackState.emptied_hasDts (tr : TrackState) :
    (tr.emptied).hasDts = tr.hasDts := rfl
@[simp] theorem TrackState.emptied_tbufBase (tr : TrackState) :
    (tr.emptied).tbufBase = tr.tbufBase := rfl
@[simp] theorem TrackState.emptied_tbufCap (tr : TrackState) :
    (tr.emptied).tbufCap = tr.tbufCap := rfl
@[simp] theorem TrackState.emptied_wrCur (tr : TrackState) :
    (tr.emptied).wrCur = 0#32 := rfl
@[simp] theorem TrackState.emptied_rdCur (tr : TrackState) :
    (tr.emptied).rdCur = 0#32 := rfl
@[simp] theorem TrackState.emptied_extents (tr : TrackState) :
    (tr.emptied).extents = [] := rfl
@[simp] theorem TrackState.emptied_framesWritten (tr : TrackState) :
    (tr.emptied).framesWritten = 0#32 := rfl
@[simp] theorem TrackState.emptied_firstFrame (tr : TrackState) :
    (tr.emptied).firstFrame = 0#32 := rfl
@[simp] theorem TrackState.emptied_cc (tr : TrackState) :
    (tr.emptied).cc = tr.cc := rfl
@[simp] theorem TrackState.emptied_tsNext (tr : TrackState) :
    (tr.emptied).tsNext = tr.tsNext := rfl
@[simp] theorem TrackState.emptied_tsInc (tr : TrackState) :
    (tr.emptied).tsInc = tr.tsInc := rfl

@[simp] theorem TrackState.opened_codec (tr : TrackState) (rate channels : Word32) (inc : Word64) :
    (tr.opened rate channels inc).codec = tr.codec := rfl
@[simp] theorem TrackState.opened_nFrames (tr : TrackState) (rate channels : Word32) (inc : Word64) :
    (tr.opened rate channels inc).nFrames = 0#32 := rfl
@[simp] theorem TrackState.opened_infos (tr : TrackState) (rate channels : Word32) (inc : Word64) :
    (tr.opened rate channels inc).infos = [] := rfl
@[simp] theorem TrackState.opened_rate (tr : TrackState) (rate channels : Word32) (inc : Word64) :
    (tr.opened rate channels inc).rate = rate := rfl
@[simp] theorem TrackState.opened_channels (tr : TrackState) (rate channels : Word32) (inc : Word64) :
    (tr.opened rate channels inc).channels = channels := rfl
@[simp] theorem TrackState.opened_repeatSeg (tr : TrackState) (rate channels : Word32) (inc : Word64) :
    (tr.opened rate channels inc).repeatSeg = tr.repeatSeg := rfl
@[simp] theorem TrackState.opened_hasDts (tr : TrackState) (rate channels : Word32) (inc : Word64) :
    (tr.opened rate channels inc).hasDts = tr.hasDts := rfl
@[simp] theorem TrackState.opened_tbufBase (tr : TrackState) (rate channels : Word32) (inc : Word64) :
    (tr.opened rate channels inc).tbufBase = tr.tbufBase := rfl
@[simp] theorem TrackState.opened_tbufCap (tr : TrackState) (rate channels : Word32) (inc : Word64) :
    (tr.opened rate channels inc).tbufCap = tr.tbufCap := rfl
@[simp] theorem TrackState.opened_wrCur (tr : TrackState) (rate channels : Word32) (inc : Word64) :
    (tr.opened rate channels inc).wrCur = 0#32 := rfl
@[simp] theorem TrackState.opened_rdCur (tr : TrackState) (rate channels : Word32) (inc : Word64) :
    (tr.opened rate channels inc).rdCur = 0#32 := rfl
@[simp] theorem TrackState.opened_extents (tr : TrackState) (rate channels : Word32) (inc : Word64) :
    (tr.opened rate channels inc).extents = [] := rfl
@[simp] theorem TrackState.opened_framesWritten (tr : TrackState) (rate channels : Word32) (inc : Word64) :
    (tr.opened rate channels inc).framesWritten = 0#32 := rfl
@[simp] theorem TrackState.opened_firstFrame (tr : TrackState) (rate channels : Word32) (inc : Word64) :
    (tr.opened rate channels inc).firstFrame = 0#32 := rfl
@[simp] theorem TrackState.opened_cc (tr : TrackState) (rate channels : Word32) (inc : Word64) :
    (tr.opened rate channels inc).cc = 0#4 := rfl
@[simp] theorem TrackState.opened_tsNext (tr : TrackState) (rate channels : Word32) (inc : Word64) :
    (tr.opened rate channels inc).tsNext = 0#64 := rfl
@[simp] theorem TrackState.opened_tsInc (tr : TrackState) (rate channels : Word32) (inc : Word64) :
    (tr.opened rate channels inc).tsInc = inc := rfl

@[simp] theorem TrackState.closed_codec (tr : TrackState) :
    (tr.closed).codec = tr.codec := rfl
@[simp] theorem TrackState.closed_nFrames (tr : TrackState) :
    (tr.closed).nFrames = 0#32 := rfl
@[simp] theorem TrackState.closed_infos (tr : TrackState) :
    (tr.closed).infos = [] := rfl
@[simp] theorem TrackState.closed_rate (tr : TrackState) :
    (tr.closed).rate = 0#32 := rfl
@[simp] theorem TrackState.closed_channels (tr : TrackState) :
    (tr.closed).channels = 0#32 := rfl
@[simp] theorem TrackState.closed_repeatSeg (tr : TrackState) :
    (tr.closed).repeatSeg = tr.repeatSeg := rfl
@[simp] theorem TrackState.closed_hasDts (tr : TrackState) :
    (tr.closed).hasDts = tr.hasDts := rfl
@[simp] theorem TrackState.closed_tbufBase (tr : TrackState) :
    (tr.closed).tbufBase = tr.tbufBase := rfl
@[simp] theorem TrackState.closed_tbufCap (tr : TrackState) :
    (tr.closed).tbufCap = tr.tbufCap := rfl
@[simp] theorem TrackState.closed_wrCur (tr : TrackState) :
    (tr.closed).wrCur = 0#32 := rfl
@[simp] theorem TrackState.closed_rdCur (tr : TrackState) :
    (tr.closed).rdCur = 0#32 := rfl
@[simp] theorem TrackState.closed_extents (tr : TrackState) :
    (tr.closed).extents = [] := rfl
@[simp] theorem TrackState.closed_framesWritten (tr : TrackState) :
    (tr.closed).framesWritten = 0#32 := rfl
@[simp] theorem TrackState.closed_firstFrame (tr : TrackState) :
    (tr.closed).firstFrame = 0#32 := rfl
@[simp] theorem TrackState.closed_cc (tr : TrackState) :
    (tr.closed).cc = 0#4 := rfl
@[simp] theorem TrackState.closed_tsNext (tr : TrackState) :
    (tr.closed).tsNext = 0#64 := rfl
@[simp] theorem TrackState.closed_tsInc (tr : TrackState) :
    (tr.closed).tsInc = 0#64 := rfl

@[simp] theorem TrackState.consumed_codec (tr : TrackState) (frames bytes : Nat) :
    (tr.consumed frames bytes).codec = tr.codec := rfl
@[simp] theorem TrackState.consumed_nFrames (tr : TrackState) (frames bytes : Nat) :
    (tr.consumed frames bytes).nFrames = tr.nFrames := rfl
@[simp] theorem TrackState.consumed_infos (tr : TrackState) (frames bytes : Nat) :
    (tr.consumed frames bytes).infos = tr.infos := rfl
@[simp] theorem TrackState.consumed_rate (tr : TrackState) (frames bytes : Nat) :
    (tr.consumed frames bytes).rate = tr.rate := rfl
@[simp] theorem TrackState.consumed_channels (tr : TrackState) (frames bytes : Nat) :
    (tr.consumed frames bytes).channels = tr.channels := rfl
@[simp] theorem TrackState.consumed_repeatSeg (tr : TrackState) (frames bytes : Nat) :
    (tr.consumed frames bytes).repeatSeg = tr.repeatSeg := rfl
@[simp] theorem TrackState.consumed_hasDts (tr : TrackState) (frames bytes : Nat) :
    (tr.consumed frames bytes).hasDts = tr.hasDts := rfl
@[simp] theorem TrackState.consumed_tbufBase (tr : TrackState) (frames bytes : Nat) :
    (tr.consumed frames bytes).tbufBase = tr.tbufBase := rfl
@[simp] theorem TrackState.consumed_tbufCap (tr : TrackState) (frames bytes : Nat) :
    (tr.consumed frames bytes).tbufCap = tr.tbufCap := rfl
@[simp] theorem TrackState.consumed_wrCur (tr : TrackState) (frames bytes : Nat) :
    (tr.consumed frames bytes).wrCur = tr.wrCur := rfl
@[simp] theorem TrackState.consumed_rdCur (tr : TrackState) (frames bytes : Nat) :
    (tr.consumed frames bytes).rdCur = BitVec.ofNat 32 bytes := rfl
@[simp] theorem TrackState.consumed_extents (tr : TrackState) (frames bytes : Nat) :
    (tr.consumed frames bytes).extents = tr.extents := rfl
@[simp] theorem TrackState.consumed_framesWritten (tr : TrackState) (frames bytes : Nat) :
    (tr.consumed frames bytes).framesWritten = BitVec.ofNat 32 frames := rfl
@[simp] theorem TrackState.consumed_firstFrame (tr : TrackState) (frames bytes : Nat) :
    (tr.consumed frames bytes).firstFrame = tr.firstFrame := rfl
@[simp] theorem TrackState.consumed_cc (tr : TrackState) (frames bytes : Nat) :
    (tr.consumed frames bytes).cc = tr.cc := rfl
@[simp] theorem TrackState.consumed_tsNext (tr : TrackState) (frames bytes : Nat) :
    (tr.consumed frames bytes).tsNext = tr.tsNext := rfl
@[simp] theorem TrackState.consumed_tsInc (tr : TrackState) (frames bytes : Nat) :
    (tr.consumed frames bytes).tsInc = tr.tsInc := rfl

@[simp] theorem TrackState.withFrame_codec (tr : TrackState) (t : TrackId) (size : Word32) (pts dts : Word64) (key : Bool) :
    (tr.withFrame t size pts dts key).codec = tr.codec := rfl
@[simp] theorem TrackState.withFrame_nFrames (tr : TrackState) (t : TrackId) (size : Word32) (pts dts : Word64) (key : Bool) :
    (tr.withFrame t size pts dts key).nFrames = tr.nFrames + 1#32 := rfl
@[simp] theorem TrackState.withFrame_infos (tr : TrackState) (t : TrackId) (size : Word32) (pts dts : Word64) (key : Bool) :
    (tr.withFrame t size pts dts key).infos = putEntry (staleInfo t) tr.infos tr.nFrames.toNat ⟨pts, dts, key || decide (t = .audio)⟩ := rfl
@[simp] theorem TrackState.withFrame_rate (tr : TrackState) (t : TrackId) (size : Word32) (pts dts : Word64) (key : Bool) :
    (tr.withFrame t size pts dts key).rate = tr.rate := rfl
@[simp] theorem TrackState.withFrame_channels (tr : TrackState) (t : TrackId) (size : Word32) (pts dts : Word64) (key : Bool) :
    (tr.withFrame t size pts dts key).channels = tr.channels := rfl
@[simp] theorem TrackState.withFrame_repeatSeg (tr : TrackState) (t : TrackId) (size : Word32) (pts dts : Word64) (key : Bool) :
    (tr.withFrame t size pts dts key).repeatSeg = tr.repeatSeg := rfl
@[simp] theorem TrackState.withFrame_hasDts (tr : TrackState) (t : TrackId) (size : Word32) (pts dts : Word64) (key : Bool) :
    (tr.withFrame t size pts dts key).hasDts = tr.hasDts := rfl
@[simp] theorem TrackState.withFrame_tbufBase (tr : TrackState) (t : TrackId) (size : Word32) (pts dts : Word64) (key : Bool) :
    (tr.withFrame t size pts dts key).tbufBase = tr.tbufBase := rfl
@[simp] theorem TrackState.withFrame_tbufCap (tr : TrackState) (t : TrackId) (size : Word32) (pts dts : Word64) (key : Bool) :
    (tr.withFrame t size pts dts key).tbufCap = tr.tbufCap := rfl
@[simp] theorem TrackState.withFrame_wrCur (tr : TrackState) (t : TrackId) (size : Word32) (pts dts : Word64) (key : Bool) :
    (tr.withFrame t size pts dts key).wrCur = tr.wrCur + size := rfl
@[simp] theorem TrackState.withFrame_rdCur (tr : TrackState) (t : TrackId) (size : Word32) (pts dts : Word64) (key : Bool) :
    (tr.withFrame t size pts dts key).rdCur = tr.rdCur := rfl
@[simp] theorem TrackState.withFrame_extents (tr : TrackState) (t : TrackId) (size : Word32) (pts dts : Word64) (key : Bool) :
    (tr.withFrame t size pts dts key).extents = putEntry (staleExtent t) tr.extents (tr.nFrames.toNat - tr.firstFrame.toNat) ⟨tr.wrCur, size⟩ := rfl
@[simp] theorem TrackState.withFrame_framesWritten (tr : TrackState) (t : TrackId) (size : Word32) (pts dts : Word64) (key : Bool) :
    (tr.withFrame t size pts dts key).framesWritten = tr.framesWritten := rfl
@[simp] theorem TrackState.withFrame_firstFrame (tr : TrackState) (t : TrackId) (size : Word32) (pts dts : Word64) (key : Bool) :
    (tr.withFrame t size pts dts key).firstFrame = tr.firstFrame := rfl
@[simp] theorem TrackState.withFrame_cc (tr : TrackState) (t : TrackId) (size : Word32) (pts dts : Word64) (key : Bool) :
    (tr.withFrame t size pts dts key).cc = tr.cc := rfl
@[simp] theorem TrackState.withFrame_tsNext (tr : TrackState) (t : TrackId) (size : Word32) (pts dts : Word64) (key : Bool) :
    (tr.withFrame t size pts dts key).tsNext = tr.tsNext := rfl
@[simp] theorem TrackState.withFrame_tsInc (tr : TrackState) (t : TrackId) (size : Word32) (pts dts : Word64) (key : Bool) :
    (tr.withFrame t size pts dts key).tsInc = tr.tsInc := rfl

end Sys2Proof.Machine
end

