-- ==== Sys2Proof/Laws/Commands.lean ====
section
/-! SUPPORT. What each shared operation of the commands can answer, once: later proofs cite these instead of
unfolding the operations. -/

namespace Sys2Proof.Machine

/-! ## The bit writer (40_bitwriter.md R103, R106) -/

/-- All that an append can answer. -/
theorem bwPut_cases (w v : Nat) (s : State) :
    (8 * s.bw.bound.toNat < s.bw.bitcnt.toNat + w ∧ bwPut w v s = .err .bwBound) ∨
    (s.bw.bitcnt.toNat + w ≤ 8 * s.bw.bound.toNat ∧ s.bw.accn.toNat + w < 32 ∧
      bwPut w v s = .ok { s with bw := { s.bw with
        acc := BitVec.ofNat 32 (s.bw.acc.toNat * 2 ^ w + v % 2 ^ w)
        accn := BitVec.ofNat 6 (s.bw.accn.toNat + w)
        bitcnt := BitVec.ofNat 64 (s.bw.bitcnt.toNat + w) } }) ∨
    (s.bw.bitcnt.toNat + w ≤ 8 * s.bw.bound.toNat ∧ 32 ≤ s.bw.accn.toNat + w ∧
      bwPut w v s =
        (s.store (s.bw.base.toNat + s.bw.ptr.toNat)
          (beBytes 4 (s.bw.acc.toNat * 2 ^ (32 - s.bw.accn.toNat) +
            v % 2 ^ w / 2 ^ (w - (32 - s.bw.accn.toNat))))).bind fun s' =>
        .ok { s' with bw := { s.bw with
          ptr := BitVec.ofNat 32 (s.bw.ptr.toNat + 4)
          acc := BitVec.ofNat 32 (v % 2 ^ w % 2 ^ (w - (32 - s.bw.accn.toNat)))
          accn := BitVec.ofNat 6 (w - (32 - s.bw.accn.toNat))
          bitcnt := BitVec.ofNat 64 (s.bw.bitcnt.toNat + w) } }) := by
  unfold bwPut
  by_cases h1 : s.bw.bitcnt.toNat + w > 8 * s.bw.bound.toNat
  · exact .inl ⟨h1, by simp [h1]⟩
  · by_cases h2 : s.bw.accn.toNat + w < 32
    · exact .inr (.inl ⟨by omega, h2, by simp [h1, h2]⟩)
    · exact .inr (.inr ⟨by omega, by omega, by simp [h1, h2]⟩)

/-! ## The packetizer (44_packetizer.md R171) -/

/-- What an emission of packets leaves. -/
theorem State.emitPackets_ok {s s' : State} {t : TrackId} {ps : List (List Byte)}
    (h : s.emitPackets t ps = .ok s') :
    s.outBase.toNat + s.outWr.toNat + ps.flatten.length ≤ Config.memSize ∧
      s' = ({ s with mem := s.mem.writeBytes (s.outBase.toNat + s.outWr.toNat) ps.flatten
                     outWr := BitVec.ofNat 32 (s.outWr.toNat + 188 * ps.length)
                     outPkts := BitVec.ofNat 32 (s.outPkts.toNat + ps.length) }.setTrack t
        { s.track t with cc := BitVec.ofNat 4 ((s.track t).cc.toNat + ps.length) }) := by
  obtain ⟨s1, h1, h2⟩ := Result.bind_eq_ok.mp h
  obtain ⟨hm, rfl⟩ := State.store_ok h1
  exact ⟨hm, (Result.ok.inj h2).symm⟩

/-- What a frame packetized leaves: the packets of its PES packet, all of which fit. -/
theorem packetize_ok {t : TrackId} {src size sid pid n : Nat} {pts dts : Word64} {isPcr : Bool}
    {s s' : State} (h : packetize t src size pts dts sid pid isPcr s = .ok (s', n)) :
    ∃ p d pcr, ticks90 s.bias pts = some p ∧ ticks90 s.bias dts = some d ∧
      pcrRequest isPcr dts = .ok pcr ∧ src + size ≤ Config.memSize ∧
      n = packetCount (pesHeader size p d sid ++ s.mem.readBytes src size).length isPcr ∧
      s.outWr.toNat + 188 * n ≤ s.outCap.toNat ∧
      s.emitPackets t (packets n (s.track t).cc.toNat true pcr pid
        (pesHeader size p d sid ++ s.mem.readBytes src size)) = .ok s' := by
  unfold packetize at h
  obtain ⟨⟨p, d⟩, hticks, h⟩ := Result.bind_eq_ok.mp h
  obtain ⟨p', hp, hticks⟩ := Result.bind_eq_ok.mp hticks
  obtain ⟨d', hd, hticks⟩ := Result.bind_eq_ok.mp hticks
  obtain ⟨rfl, rfl⟩ : p' = p ∧ d' = d := by simpa using hticks
  obtain ⟨pcr, hpcr, h⟩ := Result.bind_eq_ok.mp h
  obtain ⟨frame, hf, h⟩ := Result.bind_eq_ok.mp h
  obtain ⟨hm, rfl⟩ := State.load_ok hf
  dsimp only at h
  split at h
  · cases h
  · rename_i hcap
    obtain ⟨s1, hs1, h⟩ := Result.bind_eq_ok.mp h
    obtain ⟨h1, h2⟩ := Prod.mk.inj (Result.ok.inj h)
    subst h1 h2
    exact ⟨p', d', pcr, Result.ofOption_eq_ok.mp hp, Result.ofOption_eq_ok.mp hd, hpcr, hm, rfl,
      by omega, hs1⟩

/-! ## The remux pass (46_selector.md R207 to R211) -/

theorem mux_ok {t : TrackId} {s s' : State} (h : mux t s = .ok s') :
    ∃ s1 n, packetize t
        ((s.track t).tbufBase.toNat + (s.extent t (s.track t).framesWritten.toNat).offset.toNat)
        (s.batchBytes t (s.track t).framesWritten.toNat (s.batchSize t)) (s.effPts t (s.nextFrame t))
        (s.effDts t (s.nextFrame t)) (sidOf t) (s.pidOf t) (decide (t = .video)) s = .ok (s1, n) ∧
      s' = s1.setTrack t ((s1.track t).consumed ((s.track t).framesWritten.toNat + s.batchSize t)
        ((s.extent t (s.track t).framesWritten.toNat).offset.toNat +
          s.batchBytes t (s.track t).framesWritten.toNat (s.batchSize t))) := by
  obtain ⟨⟨s1, n⟩, h1, h2⟩ := Result.bind_eq_ok.mp h
  exact ⟨s1, n, h1, (Result.ok.inj h2).symm⟩

@[simp] theorem Pass.ofResult_ok (s s' : State) : Pass.ofResult s (.ok s') = .done s' := rfl
@[simp] theorem Pass.ofResult_err (s : State) (e : ErrCode) : Pass.ofResult s (.err e) = .failed e s := rfl
@[simp] theorem Pass.ofResult_fault (s : State) (f : Fault) : Pass.ofResult s (.fault f) = .fault f := rfl
@[simp] theorem Pass.andThen_done (s : State) (k : State → Pass) : (Pass.done s).andThen k = k s := rfl
@[simp] theorem Pass.andThen_failed (e : ErrCode) (s : State) (k : State → Pass) :
    (Pass.failed e s).andThen k = .failed e s := rfl
@[simp] theorem Pass.andThen_fault (f : Fault) (k : State → Pass) :
    (Pass.fault f).andThen k = .fault f := rfl

/-- The one induction over the selections of a pass: what every mux keeps, the state at the pass's end has,
be it a success or a failure. -/
theorem selectLoop_keeps {P : State → Prop} (hP : ∀ t s s', P s → mux t s = .ok s' → P s') (fuel : Nat)
    (s : State) (hs : P s) :
    match selectLoop fuel s with
    | .done s' => P s'
    | .failed _ s' => P s'
    | .fault _ => True := by
  induction fuel generalizing s with
  | zero =>
    unfold selectLoop
    cases s.select <;> simp [hs]
  | succ n ih =>
    unfold selectLoop
    cases hsel : s.select with
    | none => simpa using hs
    | some t =>
      cases hm : mux t s with
      | ok s1 => simpa [hm] using ih s1 (hP t s s1 hs hm)
      | err e => simpa [hm] using hs
      | fault f => simp [hm]

/-- A pass that ends well has no frame left to select. -/
theorem selectLoop_done {fuel : Nat} {s s' : State} (h : selectLoop fuel s = .done s') :
    s'.select = none := by
  induction fuel generalizing s with
  | zero =>
    unfold selectLoop at h
    cases hsel : s.select with
    | none => simp [hsel] at h; exact h ▸ hsel
    | some t => simp [hsel] at h
  | succ n ih =>
    unfold selectLoop at h
    cases hsel : s.select with
    | none => simp [hsel] at h; exact h ▸ hsel
    | some t =>
      cases hm : mux t s with
      | ok s1 => simp [hsel, hm] at h; exact ih h
      | err e => simp [hsel, hm] at h
      | fault f => simp [hsel, hm] at h

/-! ## Appending a frame (47_session.md R230) -/

/-- What an append that answers has checked and leaves. -/
theorem appendFrame_ok {t : TrackId} {src size pts dts : Word64} {key : Bool} {s s' : State}
    (h : appendFrame t src size pts dts key s = .ok s') :
    finite pts = true ∧ finite dts = true ∧ (s.track t).nFrames.toNat < Config.maxFrames ∧
      (s.track t).wrCur.toNat + size.toNat ≤ (s.track t).tbufCap.toNat ∧
      (s.track t).tbufBase.toNat + (s.track t).wrCur.toNat + size.toNat ≤ Config.memSize ∧
      s' =
        State.setTrack
          { s with
            mem := s.mem.writeBytes ((s.track t).tbufBase.toNat + (s.track t).wrCur.toNat)
              (s.mem.readBytes src.toNat size.toNat) }
          t ((s.track t).withFrame t (low32 size) pts dts key) := by
  unfold appendFrame at h
  dsimp only at h
  split at h
  · cases h
  · rename_i hfin
    split at h
    · cases h
    · rename_i hcap
      split at h
      · cases h
      · rename_i hover
        obtain ⟨frame, hf, h⟩ := Result.bind_eq_ok.mp h
        obtain ⟨hm, rfl⟩ := State.load_ok hf
        obtain ⟨s1, hs1, h⟩ := Result.bind_eq_ok.mp h
        obtain ⟨hm1, rfl⟩ := State.store_ok hs1
        simp only [Memory.length_readBytes] at hm1
        have hfin' : finite pts = true ∧ finite dts = true := by simpa using hfin
        exact ⟨hfin'.1, hfin'.2, not_le.mp hcap, not_lt.mp hover, hm1, (Result.ok.inj h).symm⟩

/-! ## The step -/

/-- All that a step can do. -/
theorem step_cases (s : State) :
    (s.fetch = .idle ∧ step s = .next s) ∨ (s.fetch = .waiting ∧ step s = .next s) ∨
    (s.fetch = .outOfStep ∧ step s = .refused .portOutOfStep) ∨
    (∃ why rest, s.fetch = .illegal why rest ∧ step s = .next ((s.setPort rest).raiseError .illegal)) ∨
    (∃ i rest, s.fetch = .command i rest ∧ step s = exec i (s.setPort rest)) := by
  unfold step
  cases h : s.fetch with
  | idle => exact .inl ⟨rfl, rfl⟩
  | waiting => exact .inr (.inl ⟨rfl, rfl⟩)
  | outOfStep => exact .inr (.inr (.inl ⟨rfl, rfl⟩))
  | illegal why rest => exact .inr (.inr (.inr (.inl ⟨why, rest, rfl, rfl⟩)))
  | command i rest => exact .inr (.inr (.inr (.inr ⟨i, rest, rfl, rfl⟩)))

end Sys2Proof.Machine
end

