-- ==== Sys2Proof/Laws/Encoding.lean ====
section
/-! SUPPORT. Small facts of the packet format (30_encoding.md R81, 10_state.md R24). -/

namespace Sys2Proof

@[simp] theorem headerOpc_headerWord (opc f : BitVec 8) : headerOpc (headerWord opc f) = opc := by
  change BitVec.extractLsb' 0 8 (0#16 ++ f ++ opc : BitVec (16 + 8 + 8)) = opc
  ext i hi
  rw [BitVec.getElem_extractLsb', BitVec.getLsbD_append, BitVec.getLsbD_append]
  simp [hi]

@[simp] theorem headerF_headerWord (opc f : BitVec 8) : headerF (headerWord opc f) = f := by
  change BitVec.extractLsb' 8 8 (0#16 ++ f ++ opc : BitVec (16 + 8 + 8)) = f
  ext i hi
  rw [BitVec.getElem_extractLsb', BitVec.getLsbD_append, BitVec.getLsbD_append]
  simp [hi]

@[simp] theorem headerRsv_headerWord (opc f : BitVec 8) : headerRsv (headerWord opc f) = 0#16 := by
  change BitVec.extractLsb' 16 16 (0#16 ++ f ++ opc : BitVec (16 + 8 + 8)) = 0#16
  ext i hi
  rw [BitVec.getElem_extractLsb', BitVec.getLsbD_append, BitVec.getLsbD_append]
  rw [if_neg (show ¬ 16 + i < 8 by omega), if_neg (show ¬ 16 + i - 8 < 8 by omega)]
  simp

theorem Reg.mem_all (r : Reg) : r ∈ Reg.all := by
  rcases r with g | ⟨t, k⟩
  · cases g <;> decide
  · cases t <;> cases k <;> decide

/-- Every register is found again at its index, so no two share one (10_state.md R24). -/
@[simp] theorem Reg.ofIndex_index (r : Reg) : Reg.ofIndex r.index = some r := by
  rcases r with g | ⟨t, k⟩
  · cases g <;> decide
  · cases t <;> cases k <;> decide

/-- An index that names a register is that register's. -/
theorem Reg.index_ofIndex {idx : BitVec 8} {r : Reg} (h : Reg.ofIndex idx = some r) : r.index = idx := by
  simpa using List.find?_some h

/-- What the operand fetch can answer once all words of the command are there (30_encoding.md R82). -/
theorem decodeOperands_all (hd : Header) (got ws : List Word64) (rest : List PortWord) :
    decodeOperands hd got ws.length (ws.map .operand ++ rest) = .command (hd.instr (got ++ ws)) rest := by
  induction ws generalizing got with
  | nil => simp [decodeOperands]
  | cons w ws ih => simp [decodeOperands, ih]

end Sys2Proof
end

