-- ==== Sys2Proof/Laws/PerInstr.lean ====
section
/-! SUPPORT. The statements made once for each command. -/

namespace Sys2Proof.Laws

/-- The number of operand words of a command, the digit of its format (30_encoding.md R86). -/
def operandDigit : Instr → Nat
  | .bwFlush => 0
  | .bwCount => 0
  | .rdreg _ => 0
  | .remux => 0
  | .reset => 0
  | .teardown => 0
  | .putBits _ _ => 1
  | .putBits64 _ _ => 1
  | .wrreg _ _ => 1
  | .bwInit _ _ => 2
  | .pat _ _ => 2
  | .pmt _ _ => 2
  | .crc32 _ _ _ => 3
  | .init _ _ _ => 3
  | .acceptV _ _ _ _ => 3
  | .acceptA _ _ _ => 3
  | .append _ _ _ _ _ _ => 4
  | .tsHdr _ _ _ _ _ _ _ _ => 5
  | .pesHdr _ _ _ _ _ _ => 5
  | .pack _ _ _ _ _ _ _ _ => 6

/-- The packet of a command is a header and as many operand words as the digit of its format says, and none
of the words after the header is a header (30_encoding.md R80, R86). -/
def PacketLength.Statement (i : Instr) : Prop :=
  ∃ (h : Word32) (ws : List Word64), encode i = .header h :: ws.map .operand ∧ ws.length = operandDigit i

theorem PacketLength.bwInit (base bound : Word64) :
    PacketLength.Statement (.bwInit base bound) := ⟨_, _, rfl, rfl⟩

theorem PacketLength.putBits (width : BitVec 8) (value : Word64) :
    PacketLength.Statement (.putBits width value) := ⟨_, _, rfl, rfl⟩

theorem PacketLength.putBits64 (width : BitVec 8) (value : Word64) :
    PacketLength.Statement (.putBits64 width value) := ⟨_, _, rfl, rfl⟩

theorem PacketLength.bwFlush :
    PacketLength.Statement (.bwFlush) := ⟨_, _, rfl, rfl⟩

theorem PacketLength.bwCount :
    PacketLength.Statement (.bwCount) := ⟨_, _, rfl, rfl⟩

theorem PacketLength.wrreg (reg : Reg) (value : Word64) :
    PacketLength.Statement (.wrreg reg value) := ⟨_, _, rfl, rfl⟩

theorem PacketLength.rdreg (reg : Reg) :
    PacketLength.Statement (.rdreg reg) := ⟨_, _, rfl, rfl⟩

theorem PacketLength.crc32 (seed addr len : Word64) :
    PacketLength.Statement (.crc32 seed addr len) := ⟨_, _, rfl, rfl⟩

theorem PacketLength.tsHdr (pusi needPcr disc : Bool) (dst cc pid pcrTime payloadSize : Word64) :
    PacketLength.Statement (.tsHdr pusi needPcr disc dst cc pid pcrTime payloadSize) := ⟨_, _, rfl, rfl⟩

theorem PacketLength.pesHdr (streamId : BitVec 8) (dst bound payloadSize pts dts : Word64) :
    PacketLength.Statement (.pesHdr streamId dst bound payloadSize pts dts) := ⟨_, _, rfl, rfl⟩

theorem PacketLength.pack (pcr track : Bool) (src size pts dts streamId pid : Word64) :
    PacketLength.Statement (.pack pcr track src size pts dts streamId pid) := ⟨_, _, rfl, rfl⟩

theorem PacketLength.pat (dst counter : Word64) :
    PacketLength.Statement (.pat dst counter) := ⟨_, _, rfl, rfl⟩

theorem PacketLength.pmt (dst counter : Word64) :
    PacketLength.Statement (.pmt dst counter) := ⟨_, _, rfl, rfl⟩

theorem PacketLength.remux :
    PacketLength.Statement (.remux) := ⟨_, _, rfl, rfl⟩

theorem PacketLength.init (frameRate sampleRate channelCount : Word64) :
    PacketLength.Statement (.init frameRate sampleRate channelCount) := ⟨_, _, rfl, rfl⟩

theorem PacketLength.append (track key : Bool) (src size pts dts : Word64) :
    PacketLength.Statement (.append track key src size pts dts) := ⟨_, _, rfl, rfl⟩

theorem PacketLength.acceptV (key : Bool) (src size encStatus : Word64) :
    PacketLength.Statement (.acceptV key src size encStatus) := ⟨_, _, rfl, rfl⟩

theorem PacketLength.acceptA (src size encStatus : Word64) :
    PacketLength.Statement (.acceptA src size encStatus) := ⟨_, _, rfl, rfl⟩

theorem PacketLength.reset :
    PacketLength.Statement (.reset) := ⟨_, _, rfl, rfl⟩

theorem PacketLength.teardown :
    PacketLength.Statement (.teardown) := ⟨_, _, rfl, rfl⟩

end Sys2Proof.Laws
end

