-- ==== Sys2Proof/Laws/Turns.lean ====
section
/-! SUPPORT. The terms of Safety for a remux turn against the functions that `REMUX` runs on, and the length of a
PES header. -/

namespace Sys2Proof.Machine

theorem nextIndex_eq (s : State) (t : TrackId) : nextIndex s t = s.nextFrame t := rfl

theorem hasFrame_iff_avail (s : State) (t : TrackId) : hasFrame s t ↔ s.avail t = true := by
  simp [hasFrame, State.avail, nextIndex_eq]

theorem leadTime_eq (s : State) : leadTime s = s.leadFirst := rfl

theorem frameTimes_eq (s : State) (t : TrackId) (i : Nat) :
    frameTimes s t i = (s.effPts t i, s.effDts t i) := by
  unfold frameTimes State.effPts State.effDts State.offsetTime State.effPts State.offsetTime
  rw [leadTime_eq]
  cases (s.track t).repeatSeg <;> cases (s.track t).hasDts <;> rfl

theorem audioFirst_eq (s : State) :
    audioFirst s = flt (s.selectKey .audio) (s.selectKey .video) := by
  simp [audioFirst, frameTimes_eq, State.selectKey, nextIndex_eq]

/-- It is a track's turn exactly when the selection names it. -/
theorem turnOf_iff_select (s : State) (t : TrackId) : turnOf s t ↔ s.select = some t := by
  cases t <;> simp only [turnOf, State.select, hasFrame_iff_avail, audioFirst_eq] <;>
    cases s.avail .video <;> cases s.avail .audio <;>
    cases flt (s.selectKey .audio) (s.selectKey .video) <;> simp

theorem turnFrames_eq (s : State) (t : TrackId) : turnFrames s t = s.batchSize t := by
  cases t <;> rfl

/-- A PES header has 19 bytes with both timestamps and 14 with one (43_pes_header.md R151). -/
theorem length_pesHeader (payload : Nat) (p d : Int) (sid : Nat) :
    (pesHeader payload p d sid).length = if 10 < (p - d).natAbs then 19 else 14 := by
  by_cases h : 10 < (p - d).natAbs <;>
    simp [pesHeader, pesFixedFields, pesTimes, pesTimeFields, pesBoth, Config.ptsDtsThreshold, fieldsWidth, h]

end Sys2Proof.Machine
end

