-- ==== Sys2Proof/Tests/Slice0.lean ====
section
/-! SUPPORT. The model's own tests: words written out from the opcode map, one step of each command against the
spec's worked examples, and concrete states that meet the hypotheses of the statements. Expected values come from
the spec; the rule or vector is named at each test. -/

namespace Sys2Proof.Tests

open Sys2Proof.Machine

set_option Elab.async false

/-! ## Helpers -/

/-- The next state of an outcome, if it has one. -/
def nextOf (o : Out State) : Option State :=
  match o with
  | .next s => some s
  | .fault _ => none
  | .refused _ => none

/-- How a command that answered a next state ended. -/
def errOf (o : Out State) : Option ErrCode := (nextOf o).map (fun s => s.err)

/-- `RES0` and `RES1` after a command that answered a next state. -/
def resOf (o : Out State) : Option (Word64 × Word64) := (nextOf o).map (fun s => (s.res0, s.res1))

/-- `n` bytes of `M` after a command that answered a next state. -/
def bytesOf (o : Out State) (a n : Nat) : Option (List Nat) :=
  (nextOf o).map (fun s => (s.mem.readBytes a n).map BitVec.toNat)

/-- The outcome is a refused overlap. -/
def isOverlap (o : Out State) : Bool :=
  match o with
  | .next _ => false
  | .fault _ => false
  | .refused r => r == .regionOverlap

/-- A session with three small disjoint regions, no frames, nine digits at 0x100. -/
def opened : State :=
  { State.reset with
    session := .ready
    outBase := 0x4000#32, outCap := 0x1000#32
    video := { State.reset.video with
      tbufBase := 0x1000#32, tbufCap := 64#32, rate := 15#32, tsInc := 0x3FB1111111111111#64 }
    audio := { State.reset.audio with
      tbufBase := 0x2000#32, tbufCap := 64#32, rate := 16000#32, channels := 1#32
      tsInc := 0x3FB0624DD2F1A9FC#64 }
    mem := State.reset.mem.writeBytes 0x100
      [0x31#8, 0x32#8, 0x33#8, 0x34#8, 0x35#8, 0x36#8, 0x37#8, 0x38#8, 0x39#8] }

/-- `opened` with a video frame of three bytes and an audio frame of two. -/
def filled : State :=
  { opened with
    video := { opened.video with
      nFrames := 1#32, wrCur := 3#32, infos := [⟨0#64, 0#64, true⟩], extents := [⟨0#32, 3#32⟩] }
    audio := { opened.audio with
      nFrames := 1#32, wrCur := 2#32, infos := [⟨0#64, 0#64, true⟩], extents := [⟨0#32, 2#32⟩] } }

/-- A bit writer over 5 bytes at 0x3000 with 11 bits pending, in a session (40_bitwriter.md R106). -/
def writing : State :=
  { opened with
    bwValid := true
    bw := { base := 0x3000#32, bound := 5#32, bitcnt := 11#64, ptr := 0#32, acc := 0x23A#32, accn := 11#6 } }

theorem writing_bw_ok : writing.bw.Ok := by constructor <;> decide

theorem opened_ok : opened.Ok where
  mem := by decide +kernel
  phase := rfl
  config := by constructor <;> decide +kernel
  writer h := absurd h (by decide)
  video := by constructor <;> decide +kernel
  audio := by constructor <;> decide +kernel
  outSize := by decide
  outFits := by decide
  regions := by decide +kernel
  offEmpty := by decide

theorem filled_ok : filled.Ok where
  mem := by decide +kernel
  phase := rfl
  config := by constructor <;> decide +kernel
  writer h := absurd h (by decide)
  video := by constructor <;> decide +kernel
  audio := by constructor <;> decide +kernel
  outSize := by decide
  outFits := by decide
  regions := by decide +kernel
  offEmpty := by decide

/-! ## WellFormed: the ill-formed term its one check refuses (30_encoding.md R85) -/

theorem test_wellformed_refuses_read_only : (Instr.wrreg (.global .status) 0#64).wellFormed = false := rfl
theorem test_wellformed_takes_writable : (Instr.wrreg (.track .audio .cc) 0#64).wellFormed = true := rfl

/-! ## Decode: one packet of every command, header bits 7:0 = OPC and 15:8 = F (30_encoding.md R81, R84) -/

theorem test_decode_bwInit : decode [.header 0x00000001#32, .operand 1#64, .operand 2#64] =
    .command (.bwInit 1#64 2#64) [] := by decide +kernel
theorem test_decode_putBits : decode [.header 0x00002002#32, .operand 1#64] =
    .command (.putBits 32#8 1#64) [] := by decide +kernel
theorem test_decode_putBits64 : decode [.header 0x00004003#32, .operand 1#64] =
    .command (.putBits64 64#8 1#64) [] := by decide +kernel
theorem test_decode_bwFlush : decode [.header 0x00000004#32, .operand 1#64] =
    .command .bwFlush [.operand 1#64] := by decide +kernel
theorem test_decode_bwCount : decode [.header 0x00000005#32] = .command .bwCount [] := by decide +kernel
theorem test_decode_wrreg : decode [.header 0x00003A06#32, .operand 1#64] =
    .command (.wrreg (.track .audio .hasDts) 1#64) [] := by decide +kernel
theorem test_decode_rdreg : decode [.header 0x00002E07#32] =
    .command (.rdreg (.track .video .channels)) [] := by decide +kernel
theorem test_decode_crc32 : decode [.header 0x00000008#32, .operand 1#64, .operand 2#64, .operand 3#64] =
    .command (.crc32 1#64 2#64 3#64) [] := by decide +kernel
theorem test_decode_tsHdr : decode [.header 0x00000510#32, .operand 1#64, .operand 2#64, .operand 3#64,
      .operand 4#64, .operand 5#64] =
    .command (.tsHdr true false true 1#64 2#64 3#64 4#64 5#64) [] := by decide +kernel
theorem test_decode_pesHdr : decode [.header 0x0000E011#32, .operand 1#64, .operand 2#64, .operand 3#64,
      .operand 4#64, .operand 5#64] =
    .command (.pesHdr 0xE0#8 1#64 2#64 3#64 4#64 5#64) [] := by decide +kernel
theorem test_decode_pack : decode [.header 0x00000212#32, .operand 1#64, .operand 2#64, .operand 3#64,
      .operand 4#64, .operand 5#64, .operand 6#64] =
    .command (.pack false true 1#64 2#64 3#64 4#64 5#64 6#64) [] := by decide +kernel
theorem test_decode_pat : decode [.header 0x00000018#32, .operand 1#64, .operand 2#64] =
    .command (.pat 1#64 2#64) [] := by decide +kernel
theorem test_decode_pmt : decode [.header 0x00000019#32, .operand 1#64, .operand 2#64] =
    .command (.pmt 1#64 2#64) [] := by decide +kernel
theorem test_decode_remux : decode [.header 0x00000020#32] = .command .remux [] := by decide +kernel
theorem test_decode_init : decode [.header 0x00000030#32, .operand 1#64, .operand 2#64, .operand 3#64] =
    .command (.init 1#64 2#64 3#64) [] := by decide +kernel
theorem test_decode_append : decode [.header 0x00000131#32, .operand 1#64, .operand 2#64, .operand 3#64,
      .operand 4#64] = .command (.append true false 1#64 2#64 3#64 4#64) [] := by decide +kernel
theorem test_decode_acceptV : decode [.header 0x00000232#32, .operand 1#64, .operand 2#64, .operand 3#64] =
    .command (.acceptV true 1#64 2#64 3#64) [] := by decide +kernel
theorem test_decode_acceptA : decode [.header 0x00000033#32, .operand 1#64, .operand 2#64, .operand 3#64] =
    .command (.acceptA 1#64 2#64 3#64) [] := by decide +kernel
theorem test_decode_reset : decode [.header 0x00000034#32] = .command .reset [] := by decide +kernel
theorem test_decode_teardown : decode [.header 0x00000035#32] = .command .teardown [] := by decide +kernel

/-- Each reason a header is illegal, by name (30_encoding.md R85). -/
theorem test_decode_illegal_by_name :
    decodeHeader 0x00000000#32 = .error .unknownOpcode ∧ decodeHeader 0xFFFFFFFF#32 = .error .reservedBits ∧
    decodeHeader 0x00000120#32 = .error .unusedFlag ∧ decodeHeader 0x00000810#32 = .error .unusedFlag ∧
    decodeHeader 0x00000412#32 = .error .unusedFlag ∧ decodeHeader 0x00000132#32 = .error .unusedFlag ∧
    decodeHeader 0x00002F07#32 = .error .reservedIndex ∧ decodeHeader 0x00000D06#32 = .error .reservedIndex ∧
    decodeHeader 0x00002706#32 = .error .readOnlyIndex := by decide +kernel

/-- The host's numbering: the header is bits 31:0, `W1` bits 95:32, absent bits are 0. -/
theorem test_table_words : decodeTableWord 32 0x00000802 = some (.putBits 8#8 0#64) ∧
    decodeTableWord 96 (0x47 * 2 ^ 32 + 0x00000802) = some (.putBits 8#8 0x47#64) ∧
    decodeTableWord 32 0x00010004 = none := by decide +kernel

theorem test_step_runs_fetch_word :
    errOf (step (State.reset.withFetchWord 32 0x00000005)) = some .state ∧
    resOf (step (State.reset.withFetchWord 32 0x00000407)) = some (0x1000#64, 0#64) := by decide +kernel

/-! ## One step of each command, from the spec's examples -/

/-- 40_bitwriter.md R102. -/
theorem test_bwInit : (nextOf (exec (.bwInit 0x2000#64 188#64) State.reset)).map
      (fun s => (s.bw.base, s.bw.bound, s.bw.bitcnt, s.bwValid)) =
    some (0x2000#32, 188#32, 0#64, true) := by decide +kernel

/-- 40_bitwriter.md R104: `PUT_BITS 4, 0xFFF7` appends `'0111'`. -/
theorem test_putBits : (nextOf (exec (.putBits 4#8 0xFFF7#64) writing)).map
      (fun s => (s.bw.acc, s.bw.accn, s.bw.bitcnt, s.err)) =
    some (0x23A7#32, 15#6, 15#64, .ok) := by decide +kernel

/-- 40_bitwriter.md R101, R103: the append that completes a word commits it, first bit in bit 7. -/
theorem test_putBits_commits : bytesOf (exec (.putBits 21#8 0x1FFFFF#64) writing) 0x3000 5 =
    some [0x47, 0x5F, 0xFF, 0xFF, 0] := by decide +kernel

/-- 40_bitwriter.md R105: thirty-three 1 bits after `01000111 010`. -/
theorem test_putBits64 : (nextOf (exec (.putBits64 29#8 0xFFFFFFFFFFFFFFFF#64) writing)).map
      (fun s => (s.bw.ptr, s.bw.acc, s.bw.accn)) = some (4#32, 0xFF#32, 8#6) ∧
    errOf (exec (.putBits64 30#8 0#64) writing) = some .bwBound := by decide +kernel

/-- 40_bitwriter.md R106. -/
theorem test_bwFlush : resOf (exec .bwFlush writing) = some (2#64, 16#64) ∧
    bytesOf (exec .bwFlush writing) 0x3000 3 = some [0x47, 0x40, 0] := by decide +kernel

/-- 40_bitwriter.md R107. -/
theorem test_bwCount : resOf (exec .bwCount writing) = some (1#64, 11#64) := by decide +kernel

/-- 47_session.md R242. -/
theorem test_wrreg : (nextOf (exec (.wrreg (.global .outCap) 0x10000#64) State.reset)).map
      (fun s => (s.outCap, s.err)) = some (0x10000#32, .ok) ∧
    errOf (exec (.wrreg (.global .outCap) 0x10000#64) opened) = some .state := by decide +kernel

/-- 47_session.md R243. -/
theorem test_rdreg : resOf (exec (.rdreg (.global .pmtPid)) State.reset) = some (0x1000#64, 0#64) := by
  decide +kernel

/-- 41_crc32.md R124: the nine digits. -/
theorem test_crc32 : resOf (exec (.crc32 0xFFFFFFFF#64 0x100#64 9#64) opened) =
    some (0x000000000376E6E7#64, 0#64) := by decide +kernel

/-- 41_crc32.md R122: entries of the table. -/
theorem test_crc_table : crcTable 1#8 = 0x04C11DB7#32 ∧ crcTable 2#8 = 0x09823B6E#32 ∧
    crcTable 3#8 = 0x0D4326D9#32 ∧ crcTable 255#8 = 0xB1F740B4#32 := by decide +kernel

/-- 42_ts_header.md R138. -/
theorem test_tsHdr :
    let o := exec (.tsHdr true true false 0x2800#64 0#64 0x1002#64 0#64 514#64) State.reset
    resOf o = some (12#64, 176#64) ∧
    bytesOf o 0x2800 13 = some [0x47, 0x50, 0x02, 0x30, 0x07, 0x10, 0, 0, 0, 0, 0x7E, 0, 0] := by
  decide +kernel

/-- 43_pes_header.md R158. -/
theorem test_pesHdr :
    let o := exec (.pesHdr 0xE0#8 0x2900#64 188#64 500#64 0#64 0#64) State.reset
    resOf o = some (14#64, 0#64) ∧
    bytesOf o 0x2900 14 =
      some [0, 0, 1, 0xE0, 0, 0, 0x80, 0x80, 5, 0x21, 0, 1, 0xD2, 0xF1] := by decide +kernel

/-- 44_packetizer.md R178: `size = 0` gives one packet holding the PES header alone. -/
theorem test_pack :
    let o := exec (.pack true false 0#64 0#64 0#64 0#64 0xE0#64 0x1002#64) opened
    resOf o = some (1#64, 188#64) ∧
    bytesOf o 0x4000 6 = some [0x47, 0x50, 0x02, 0x30, 0xA9, 0x10] ∧
    bytesOf o (0x4000 + 174) 14 = some [0, 0, 1, 0xE0, 0, 0, 0x80, 0x80, 5, 0x21, 0, 1, 0xD2, 0xF1] ∧
    (nextOf o).map (fun s => (s.video.cc, s.outPkts, s.outValid)) = some (1#4, 1#32, false) := by
  decide +kernel

/-- 45_psi_tables.md R189. -/
theorem test_pat : bytesOf (exec (.pat 0x3000#64 0#64) State.reset) 0x3000 22 =
    some [0x47, 0x40, 0, 0x10, 0, 0, 0xB0, 0x0D, 0, 1, 0xC1, 0, 0, 0, 1, 0xF0, 0, 0x2A, 0xB1, 0x04, 0xB2,
      0xFF] := by decide +kernel

/-- 45_psi_tables.md R194. -/
theorem test_pmt : bytesOf (exec (.pmt 0x3100#64 0#64) State.reset) 0x3100 32 =
    some [0x47, 0x50, 0, 0x10, 0, 2, 0xB0, 0x17, 0, 1, 0xC1, 0, 0, 0xF0, 0x02, 0xF0, 0, 0x0F, 0xF0, 0x01, 0xF0,
      0, 0x1B, 0xF0, 0x02, 0xF0, 0, 0xCE, 0x52, 0xAF, 0x72, 0xFF] := by decide +kernel

/-- 46_selector.md R213: with no frames at all the result is the two table packets. -/
theorem test_remux_tables_only : resOf (exec .remux opened) = some (376#64, 2#64) ∧
    (nextOf (exec .remux opened)).map (fun s => (s.psiCc, s.outValid, s.phase)) =
      some (1#4, true, .idle) := by decide +kernel

/-- 46_selector.md R208, R210: the lead frame, then the audio frame, one packet each. -/
theorem test_remux_frames : resOf (exec .remux filled) = some (752#64, 4#64) ∧
    (nextOf (exec .remux filled)).map (fun s => (s.video.framesWritten, s.audio.framesWritten, s.video.rdCur,
        s.audio.rdCur, s.video.cc, s.audio.cc)) = some (1#32, 1#32, 3#32, 2#32, 1#4, 1#4) ∧
    bytesOf (exec .remux filled) (0x4000 + 376) 4 = some [0x47, 0x50, 0x02, 0x30] ∧
    bytesOf (exec .remux filled) (0x4000 + 564) 4 = some [0x47, 0x50, 0x01, 0x30] := by decide +kernel

/-- 47_session.md R226: `INIT 15, 16000, 1`. -/
theorem test_init : (nextOf (exec (.init 15#64 16000#64 1#64) { opened with session := .off })).map
      (fun s => (s.session, s.video.tsInc, s.audio.tsInc, s.audio.channels)) =
    some (.ready, 0x3FB1111111111111#64, 0x3FB0624DD2F1A9FC#64, 1#32) := by decide +kernel

/-- 47_session.md R226: after reset both buffers start at 0 and overlap, and the output has no length. -/
theorem test_init_alloc : errOf (exec (.init 15#64 16000#64 1#64) State.reset) = some .alloc := by
  decide +kernel

/-- 47_session.md R230: the frame is copied and the cursors move. -/
theorem test_append :
    let o := exec (.append false true 0x100#64 9#64 0#64 0#64) filled
    resOf o = some (1#64, 12#64) ∧ bytesOf o 0x1003 3 = some [0x31, 0x32, 0x33] ∧
    (nextOf o).map (fun s => (s.video.nFrames, s.video.extents)) =
      some (2#32, [⟨0#32, 3#32⟩, ⟨3#32, 9#32⟩]) := by decide +kernel

/-- 47_session.md R234, R236: the timestamp is the running sum. -/
theorem test_acceptV :
    let o := exec (.acceptV true 0x100#64 9#64 0#64) opened
    (nextOf o).map (fun s => (s.video.tsNext, s.video.infos)) =
      some (0x3FB1111111111111#64, [⟨0#64, 0#64, true⟩]) ∧
    errOf (exec (.acceptV true 0x100#64 9#64 1#64) opened) = some .encode := by decide +kernel

/-- 47_session.md R235: the second audio timestamp is 0.064. -/
theorem test_acceptA :
    let o := exec (.acceptA 0x100#64 2#64 0#64) opened
    (nextOf o).map (fun s => (s.audio.tsNext, s.audio.infos)) =
      some (0x3FB0624DD2F1A9FC#64, [⟨0#64, 0#64, true⟩]) := by decide +kernel

/-- 47_session.md R238. -/
theorem test_reset : (nextOf (exec .reset filled)).map (fun s => (s.session, s.video.nFrames, s.audio.wrCur,
      s.video.tsInc)) = some (.ready, 0#32, 0#32, 0x3FB1111111111111#64) := by decide +kernel

/-- 47_session.md R240. -/
theorem test_teardown : (nextOf (exec .teardown { filled with errlog := 4#32 })).map (fun s => (s.session,
      s.errlog, s.video.tsInc, s.video.tbufBase)) = some (.off, 0#32, 0#64, 0x1000#32) := by decide +kernel

/-- 00_scope.md R13 and 43_pes_header.md R154: the conversions of 0.0, 1.0 and 12/90000. -/
theorem test_ticks : ticks90 0x3FD3333333333333#64 0#64 = some 27000 ∧
    ticks90 0x3FD3333333333333#64 0x3FF0000000000000#64 = some 117000 ∧
    ticks90 0x3FD3333333333333#64 (fdiv (f64OfNat 12) (f64OfNat 90000)) = some 27011 ∧
    ticks27M 0x3FF0000000000000#64 = some 27000000 := by decide +kernel

/-! ## Concrete states that meet the hypotheses of the statements, each clause at a boundary of its range.
`witness_<Name>` is for `Obligations.<Name>`. -/

/-- `writing` with a region of two bytes, which its flush fills exactly. -/
def writingFull : State := { writing with bw := { writing.bw with bound := 2#32 } }

theorem writingFull_bw_ok : writingFull.bw.Ok := by constructor <;> decide

/-- `opened` with 999 empty video frames: one below the ceiling. -/
def almostFull : State :=
  { opened with
    video := { opened.video with
      nFrames := 999#32
      infos := List.replicate 999 ⟨0#64, 0#64, true⟩
      extents := List.replicate 999 ⟨0#32, 0#32⟩ } }

theorem almostFull_video_ok : almostFull.video.Ok := by constructor <;> decide +kernel

theorem witness_DecodingAnEncodingGivesTheCommand :
    (Instr.pack true true 1#64 2#64 3#64 4#64 5#64 6#64).wellFormed = true ∧
      (Instr.wrreg (.track .audio .hasDts) 0#64).wellFormed = true := by decide

theorem witness_ADecodedPacketIsItsEncoding :
    decode [.header 0x00000710#32, .operand 1#64, .operand 2#64, .operand 3#64, .operand 4#64, .operand 5#64,
        .header 4#32] =
      .command (.tsHdr true true true 1#64 2#64 3#64 4#64 5#64) [.header 4#32] := by decide +kernel

theorem witness_IllegalHeadersEndWithEIllegal :
    (∀ h ∈ [0x00000000#32, 0x00010004#32, 0x00000104#32, 0x00000810#32, 0x00000412#32, 0x00000431#32,
        0x00000132#32, 0x00000432#32, 0x00000D07#32, 0x00004006#32, 0x00000C06#32], illegalWord h) ∧
    (∀ h ∈ [0x00000710#32, 0x00000312#32, 0x00000232#32, 0x00003E07#32, 0x00000A06#32, 0x0000FF02#32],
        ¬ illegalWord h) ∧
    ({ writing with port := [.header 0x00000104#32, .operand 7#64] } : State).port =
      .header 0x00000104#32 :: [.operand 7#64] ∧
    writing.bwValid = true ∧ 32 < (33#8).toNat ∧ 64 < (65#8).toNat := by
  simp [illegalWord, opcodes, reservedIndex, readOnlyIndices, writing]

theorem witness_StepRunsTheDecodedCommand :
    (Instr.rdreg (.global .tsid)).wellFormed = true ∧
    (opened.sendCommand (.rdreg (.global .tsid))).port = encode (.rdreg (.global .tsid)) ++ [] ∧
    resOf (step (opened.sendCommand (.rdreg (.global .tsid)))) = some (1#64, 0#64) := by decide +kernel

theorem witness_APortWithoutAWholePacketWaitsOrIsRefused :
    (0 < (encode .bwFlush).length ∧ State.reset.port = (encode .bwFlush).take 0) ∧
    (2 < (encode (.pat 1#64 2#64)).length ∧
      (opened.send [.header 0x18#32, .operand 1#64]).port = (encode (.pat 1#64 2#64)).take 2) ∧
    (opened.send [.operand 1#64]).port = .operand 1#64 :: [] ∧
    (opened.send [.header 0x18#32, .header 4#32]).port =
      (encode (.pat 1#64 2#64)).take 1 ++ .header 4#32 :: [] := by decide +kernel

theorem witness_ResetStateIsGood : Memory.wf [(0, 1#8), (0xFFFFFFFF, 2#8)] = true := by decide +kernel

theorem witness_WrregWritesOneRegister :
    Reg.ofIndex 0x40#8 = none ∧ Reg.access (.global .status) = .ro ∧
    (Reg.access (.global .outBase) = .rwOff ∧ opened.session ≠ .off) ∧
    regLegal 16#64 (.track .video .cc) = false ∧ regLegal 15#64 (.track .video .cc) = true ∧
    errOf (exec (.wrreg (.track .video .cc) 16#64) opened) = some .range ∧
    errOf (exec (.wrreg (.track .video .cc) 15#64) opened) = some .ok ∧
    errOf (exec (.wrreg (.track .video .tbufCap) 0xFFFFFFFF#64) State.reset) = some .ok := by decide +kernel

/-- Both sides of every legal set of 10_state.md R25. -/
theorem witness_WrregRangeIsTheLegalSet :
    let ends (r : GlobalReg) (v : Word64) := errOf (exec (.wrreg (.global r) v) State.reset)
    let endsT (r : TrackReg) (v : Word64) := errOf (exec (.wrreg (.track .audio r) v) State.reset)
    Reg.access (.global .pmtPid) ≠ .ro ∧ State.reset.session = .off ∧
    (ends .pmtPid 0#64, ends .pmtPid 1#64, ends .pmtPid 0x1FFD#64, ends .pmtPid 0x1FFE#64) =
      (some .range, some .ok, some .ok, some .range) ∧
    (ends .tsid 0xFFFF#64, ends .tsid 0x10000#64) = (some .ok, some .range) ∧
    (ends .bias 0x7FEFFFFFFFFFFFFF#64, ends .bias 0x7FF0000000000000#64) = (some .ok, some .range) ∧
    (ends .audioBatch 0#64, ends .audioBatch 1#64, ends .audioBatch 1000#64, ends .audioBatch 1001#64) =
      (some .range, some .ok, some .ok, some .range) ∧
    (ends .psiCc 15#64, ends .psiCc 16#64) = (some .ok, some .range) ∧
    (ends .outCap 0xFFFFFFFF#64, ends .outCap 0x100000000#64) = (some .ok, some .range) ∧
    (endsT .codec 255#64, endsT .codec 256#64) = (some .ok, some .range) ∧
    (endsT .repeatSeg 1#64, endsT .hasDts 2#64) = (some .ok, some .range) := by decide +kernel

theorem witness_RdregReadsTheRegister : Reg.ofIndex 0x0D#8 = none := by decide

theorem witness_CanonicalMemoryIsUnique :
    Memory.wf [(7, 1#8)] = true ∧ Memory.wf (Memory.writeBytes [] 6 [0#8, 1#8]) = true ∧
    Memory.writeBytes [] 6 [0#8, 1#8] = [(7, 1#8)] := by decide +kernel

theorem witness_StoresAreAscendingByteWrites :
    opened.mem.wf = true ∧ 0xFFFFFFFE + [1#8, 2#8].length ≤ 2 ^ 32 := by decide +kernel

theorem witness_BwInitStartsTheWriter :
    2 ^ 32 < (0xFFFFFFFF#64).toNat + (2#64).toNat ∧
    errOf (exec (.bwInit 0xFFFFFFFF#64 2#64) opened) = some .range ∧
    opened.touchesSession 0xFFFFFFFF 1 = false ∧
    errOf (exec (.bwInit 0xFFFFFFFF#64 1#64) opened) = some .ok := by decide +kernel

theorem witness_PutBitsAppendsTheLowBits :
    writing.bwValid = true ∧ writing.bw.Ok ∧ (29#8).toNat ≤ 32 ∧
    writing.bw.bitcnt.toNat + (29#8).toNat ≤ 8 * writing.bw.bound.toNat ∧
    writing.writerTouchesSession = false :=
  ⟨rfl, writing_bw_ok, by decide, by decide, by decide +kernel⟩

theorem witness_PutBits64AppendsTheLowBits :
    writing.bwValid = true ∧ writing.bw.Ok ∧ (29#8).toNat ≤ 64 ∧
    writing.bw.bitcnt.toNat + (29#8).toNat ≤ 8 * writing.bw.bound.toNat ∧
    writing.writerTouchesSession = false ∧
    errOf (exec (.putBits64 64#8 0#64) { writing with bw := { writing.bw with bound := 10#32 } }) = some .ok :=
  ⟨rfl, writing_bw_ok, by decide, by decide, by decide +kernel, by decide +kernel⟩

theorem witness_BwFlushPadsAndCommits :
    State.reset.bwValid = false ∧ writingFull.bwValid = true ∧ writingFull.bw.Ok ∧
    writingFull.writerTouchesSession = false :=
  ⟨rfl, rfl, writingFull_bw_ok, by decide +kernel⟩

theorem witness_UninitialisedWriterIsRefused : opened.bwValid = false := rfl

theorem witness_BoundViolationChangesNothing :
    writing.bwValid = true ∧ 8 * writing.bw.bound.toNat < writing.bw.bitcnt.toNat + (30#8).toNat ∧
    (30#8).toNat ≤ 32 ∧ (30#8).toNat ≤ 64 := by decide

theorem witness_Crc32OfMemory :
    2 ^ 32 < (0xFFFFFFFF#64).toNat + (2#64).toNat ∧
    errOf (exec (.crc32 0#64 0xFFFFFFFF#64 2#64) opened) = some .range ∧
    errOf (exec (.crc32 0#64 0xFFFFFFFF#64 1#64) opened) = some .ok := by decide +kernel

/-- The remainder of 183 bytes takes two packets (44_packetizer.md R174), so packet 1 exists. -/
theorem witness_PacketsCarryTheData :
    1 < (packets (packetCount 183 false) 0 true none 0 (List.replicate 183 0#8)).length := by decide +kernel

/-- Every row of the length table of 42_ts_header.md R137 at its boundary. -/
theorem witness_TsHeaderBytes :
    (tsHeader 0 false none 0 false 184).length = 4 ∧ (tsHeader 0 false none 0 true 184).length = 6 ∧
    (tsHeader 0 true (some 0) 0 false 177).length = 12 ∧ (tsHeader 0 false none 0 false 183).length = 6 ∧
    (tsHeader 0 false none 0 false 1).length = 187 ∧ (tsHeader 0 false none 0 true 182).length = 6 ∧
    (tsHeader 0 true (some 0) 0 true 176).length = 12 ∧ (tsHeader 0 false none 0 false 0).length = 188 := by
  decide +kernel

theorem witness_TsHdrStoresTheHeader :
    2 ^ 32 < (0xFFFFFF45#64).toNat + 188 ∧
    errOf (exec (.tsHdr false false false 0xFFFFFF45#64 0#64 0#64 0#64 184#64) opened) = some .range ∧
    ticks27M 0x7FF0000000000000#64 = none ∧
    errOf (exec (.tsHdr false true false 0#64 0#64 0#64 0x7FF0000000000000#64 184#64) opened) = some .range ∧
    opened.touchesSession 0xFFFFFF44 188 = false ∧
    errOf (exec (.tsHdr false false false 0xFFFFFF44#64 0#64 0#64 0x7FF0000000000000#64 0#64) opened) =
      some .ok := by decide +kernel

theorem witness_PesHdrStoresTheHeader :
    2 ^ 32 < (0xFFFFFFFF#64).toNat + (14#64).toNat ∧
    errOf (exec (.pesHdr 0xE0#8 0xFFFFFFFF#64 14#64 0#64 0#64 0#64) opened) = some .range ∧
    errOf (exec (.pesHdr 0xE0#8 0#64 14#64 0#64 0x7FF0000000000000#64 0#64) opened) = some .range ∧
    ticks90 opened.bias 0x7FEFFFFFFFFFFFFF#64 = none ∧
    errOf (exec (.pesHdr 0xE0#8 0#64 14#64 0#64 0x7FEFFFFFFFFFFFFF#64 0#64) opened) = some .range ∧
    errOf (exec (.pesHdr 0xE0#8 0#64 13#64 0#64 0#64 0#64) opened) = some .bwBound ∧
    opened.touchesSession 0 14 = false ∧
    errOf (exec (.pesHdr 0xE0#8 0#64 14#64 0#64 0#64 0#64) opened) = some .ok := by decide +kernel

theorem witness_Binary64ArithmeticIsCorrectlyRounded :
    finite 0x7FEFFFFFFFFFFFFF#64 = true ∧ finite 1#64 = true ∧
    finite (fadd 0x7FEFFFFFFFFFFFFF#64 1#64) = true ∧ finite (fmul 0x7FEFFFFFFFFFFFFF#64 1#64) = true ∧
    f64Int 0x3FF0000000000000#64 ≠ 0 ∧ finite (fdiv 1#64 0x3FF0000000000000#64) = true ∧
    f64OfNat (2 ^ 53 - 1) = 0x433FFFFFFFFFFFFF#64 := by decide +kernel

theorem witness_PackStoresTheFramesPackets :
    opened.session = .ready ∧
    errOf (exec (.pack false false 0#64 0#64 0#64 0#64 0#64 0#64) State.reset) = some .state ∧
    errOf (exec (.pack false false 0xFFFFFFFF#64 2#64 0#64 0#64 0#64 0#64) opened) = some .range ∧
    errOf (exec (.pack false false 0#64 0#64 0#64 0x7FF0000000000000#64 0#64 0#64) opened) = some .range ∧
    ticks27M 0x43E0000000000000#64 = none ∧
    errOf (exec (.pack true false 0#64 0#64 0#64 0x43E0000000000000#64 0#64 0#64) opened) = some .range ∧
    errOf (exec (.pack true false 0#64 0#64 0#64 0#64 0#64 0#64) { opened with outCap := 187#32 }) =
      some .overflow ∧
    ticks90 opened.bias 0#64 = some 27000 ∧ ticks27M 0#64 = some 0 ∧
    opened.outBase.toNat + opened.outCap.toNat ≤ 2 ^ 32 ∧
    regionsOverlap 0 0 (opened.outBase.toNat + opened.outWr.toNat) 188 = false ∧
    errOf (exec (.pack true false 0#64 0#64 0#64 0#64 0#64 0#64) { opened with outCap := 188#32 }) =
      some .ok := by decide +kernel

theorem witness_PmtPacketBytes : ({ opened with pmtPid := 0x1FFD#13 } : State).pmtPid.toNat ≤ 0x1FFD := by
  decide

theorem witness_PatAndPmtStoreTheirPackets :
    2 ^ 32 < (0xFFFFFF45#64).toNat + 188 ∧ errOf (exec (.pat 0xFFFFFF45#64 0#64) opened) = some .range ∧
    opened.touchesSession 0xFFFFFF44 188 = false ∧
    errOf (exec (.pat 0xFFFFFF44#64 0#64) opened) = some .ok ∧
    errOf (exec (.pmt 0xFFFFFF44#64 0#64) opened) = some .ok := by decide +kernel

/-- A tie goes to the video track. -/
theorem witness_SelectionIsTheStableMinimum :
    filled.avail .video = true ∧ filled.avail .audio = true ∧ finite (filled.selectKey .video) = true ∧
    finite (filled.selectKey .audio) = true ∧ filled.select = some .video := by decide +kernel

theorem witness_RemuxWithoutFramesEmitsTheTables :
    let s : State := { opened with outCap := 376#32 }
    s.session = .ready ∧ s.video.repeatSeg = false ∧ s.audio.repeatSeg = false ∧ s.avail .video = false ∧
    s.avail .audio = false ∧ 376 ≤ s.outCap.toNat ∧ s.outBase.toNat + s.outCap.toNat ≤ 2 ^ 32 ∧
    errOf (exec .remux s) = some .ok := by decide +kernel

theorem witness_RemuxSucceedsWithEnoughOutput :
    filled.Ok ∧ filled.session = .ready ∧ filled.video.repeatSeg = false ∧ filled.audio.repeatSeg = false ∧
    filled.ticksDefined .video ∧ filled.ticksDefined .audio ∧
    376 + 188 * (filled.packetsLeft .video + filled.packetsLeft .audio) ≤ filled.outCap.toNat := by
  refine ⟨filled_ok, rfl, rfl, rfl, ?_, ?_, by decide +kernel⟩
  · intro i hi
    obtain rfl : i = 0 := by
      have h : (filled.track .video).nFrames.toNat = 1 := rfl
      omega
    exact ⟨by decide +kernel, by decide +kernel, by decide +kernel⟩
  · intro i hi
    obtain rfl : i = 0 := by
      have h : (filled.track .audio).nFrames.toNat = 1 := rfl
      omega
    exact ⟨by decide +kernel, by decide +kernel, by decide⟩

/-- An output one byte too small for the tables, and one too small for the second frame: the first frame counts
as consumed. -/
theorem witness_FailedRemuxReleasesTheOutput :
    let small : State := { filled with outCap := 375#32 }
    let short : State := { filled with outCap := 564#32 }
    small.remuxGate = true ∧ small.outCap.toNat < 376 ∧ errOf (exec .remux small) = some .overflow ∧
    short.remuxGate = true ∧
    (nextOf (exec .remux short)).map (fun t => (t.err, t.session, t.video.framesWritten,
      t.audio.framesWritten)) = some (.overflow, .failed, 1#32, 0#32) := by decide +kernel

theorem witness_RemuxChangesOnlyItsOwnState :
    (nextOf (exec .remux filled)).isSome = true ∧ (nextOf (exec .remux State.reset)).isSome = true := by
  decide +kernel

theorem witness_RemuxOutputStartsWithTheTables : errOf (exec .remux filled) = some .ok ∧
    (nextOf (exec .remux filled)).map (fun t => t.outPkts) = some 4#32 := by decide +kernel

theorem witness_InitOpensTheSession :
    let off : State := { opened with session := .off }
    errOf (exec (.init 1#64 1#64 0#64) opened) = some .state ∧
    errOf (exec (.init 0x100000000#64 1#64 0#64) off) = some .range ∧
    errOf (exec (.init 1#64 0#64 0#64) off) = some .range ∧
    errOf (exec (.init 1#64 1#64 0#64) { off with outCap := 0#32 }) = some .alloc ∧
    errOf (exec (.init 1#64 1#64 0#64) { off with outBase := 0xFFFFF001#32 }) = some .alloc ∧
    errOf (exec (.init 1#64 1#64 0#64) { off with outBase := 0x1001#32 }) = some .alloc ∧
    errOf (exec (.init 1#64 1#64 0#64) { off with outBase := 0xFFFFF000#32 }) = some .ok ∧
    errOf (exec (.init 0xFFFFFFFF#64 1#64 0#64) { off with outBase := 0x1040#32, outCap := 1#32 }) =
      some .ok := by decide +kernel

theorem witness_AppendAddsOneFrame :
    almostFull.video.Ok ∧
    errOf (exec (.append false true 0#64 0#64 0#64 0#64) State.reset) = some .state ∧
    errOf (exec (.append false true 0xFFFFFFFF#64 2#64 0#64 0#64) opened) = some .range ∧
    errOf (exec (.append false true 0#64 0#64 0x7FF0000000000000#64 0#64) opened) = some .range ∧
    errOf (exec (.append false true 0#64 0#64 0#64 0#64)
      { opened with video := { opened.video with nFrames := 1000#32 } }) = some .capacity ∧
    errOf (exec (.append false true 0#64 65#64 0#64 0#64) opened) = some .overflow ∧
    almostFull.session = .ready ∧
    almostFull.video.tbufBase.toNat + almostFull.video.tbufCap.toNat ≤ 2 ^ 32 ∧
    regionsOverlap 0 64 (almostFull.video.tbufBase.toNat + almostFull.video.wrCur.toNat) 64 = false ∧
    errOf (exec (.append false true 0#64 64#64 0#64 0#64) almostFull) = some .ok :=
  ⟨almostFull_video_ok, by decide +kernel⟩

theorem witness_AcceptAddsAFrameWithTheDerivedTime :
    opened.audio.Ok ∧
    errOf (exec (.acceptV true 0#64 0#64 0#64) State.reset) = some .state ∧
    errOf (exec (.acceptA 0xFFFFFFFF#64 2#64 1#64) opened) = some .range ∧
    errOf (exec (.acceptA 0#64 0#64 1#64) opened) = some .encode ∧
    errOf (exec (.acceptV true 0#64 0#64 0#64)
      { opened with video := { opened.video with tsNext := 0x7FF0000000000000#64 } }) = some .range ∧
    errOf (exec (.acceptV true 0#64 0#64 0#64)
      { opened with video := { opened.video with nFrames := 1000#32 } }) = some .capacity ∧
    errOf (exec (.acceptA 0#64 65#64 0#64) opened) = some .overflow ∧
    finite opened.audio.tsNext = true ∧ errOf (exec (.acceptA 0#64 64#64 0#64) opened) = some .ok ∧
    errOf (exec (.acceptV false 0#64 64#64 0#64) almostFull) = some .ok :=
  ⟨opened_ok.audio, by decide +kernel⟩

theorem witness_ResetEmptiesTheBuffers : State.reset.session = .off ∧ filled.session ≠ .off := by decide

/-- Every transition of the life cycle happens. -/
theorem witness_SessionLifeCycle :
    let sess (o : Out State) := (nextOf o).map (fun t => t.session)
    sess (exec (.init 1#64 1#64 0#64) { opened with session := .off }) = some .ready ∧
    sess (exec .remux { filled with outCap := 375#32 }) = some .failed ∧
    sess (exec .reset { filled with session := .failed }) = some .ready ∧
    sess (exec .teardown filled) = some .off ∧ sess (exec .remux filled) = some .ready := by decide +kernel

theorem witness_FramesAreImmutable :
    filled.Ok ∧ (nextOf (exec (.append false true 0x100#64 9#64 0#64 0#64) filled)).isSome = true ∧
    (nextOf (exec .reset filled)).isSome = true := ⟨filled_ok, by decide +kernel, by decide +kernel⟩

theorem witness_ConfigurationChangesOnlyByWrreg :
    (nextOf (exec .remux filled)).isSome = true ∧ filled.session ≠ .off ∧
    (nextOf (exec (.wrreg (.global .tsid) 2#64) filled)).isSome = true := by decide +kernel

/-- Every kind of gate, closed and open (60_exceptions.md R256). -/
theorem witness_StateGateIsTheTable :
    filled.video.firstFrame = 0#32 ∧ (Instr.wrreg (.global .outBase) 0#64).wellFormed = true ∧
    errOf (exec .bwFlush filled) = some .state ∧ errOf (exec .bwFlush writing) = some .ok ∧
    errOf (exec (.wrreg (.global .outBase) 0#64) filled) = some .state ∧
    errOf (exec (.wrreg (.global .outBase) 0#64) State.reset) = some .ok ∧
    errOf (exec .remux { opened with audio := { opened.audio with repeatSeg := true } }) = some .state ∧
    errOf (exec .remux { filled with audio := { filled.audio with repeatSeg := true } }) = some .ok ∧
    errOf (exec .reset State.reset) = some .state ∧ errOf (exec .teardown State.reset) = some .ok := by
  decide +kernel

theorem witness_ErrorsArePrecise :
    errOf (exec .bwCount filled) = some .state ∧ errOf (exec .remux State.reset) = some .state ∧
    State.reset.remuxGate = false ∧ ({ filled with outCap := 375#32 } : State).remuxGate = true ∧
    errOf (exec .remux { filled with outCap := 375#32 }) = some .overflow ∧
    errOf (exec .teardown filled) = some .ok ∧ errOf (exec .reset filled) = some .ok := by decide +kernel

theorem witness_EarlierReportsAreNoInput :
    (nextOf (exec .remux filled)).isSome = true ∧ (∀ reg, Instr.remux ≠ .rdreg reg) ∧
    (nextOf (exec .bwCount filled)).isSome = true :=
  ⟨by decide +kernel, (by intro reg h; cases h), by decide +kernel⟩

/-- `opened` with a writer over the first bytes of its output region. -/
def writingInside : State := { writing with bw := { writing.bw with base := 0x4000#32 } }

theorem writingInside_bw_ok : writingInside.bw.Ok := by constructor <;> decide

/-- Each clause, the wide and the PCR-bearing forms among them, at the first address that overlaps. -/
theorem witness_UnspecifiedOverlapsAreRefused :
    writingInside.bw.Ok ∧ writingInside.bwValid = true ∧ writingInside.writerTouchesSession = true ∧
    (∀ o ∈ [exec (.bwInit 0x4FFF#64 1#64) opened, exec (.putBits 29#8 0#64) writingInside,
        exec (.putBits64 29#8 0#64) writingInside,
        exec (.putBits64 64#8 0#64) { writingInside with bw := { writingInside.bw with bound := 10#32 } },
        exec .bwFlush writingInside, exec (.pat 0x3F45#64 0#64) opened, exec (.pmt 0x3F45#64 0#64) opened,
        exec (.tsHdr false false false 0x3F45#64 0#64 0#64 0x7FF0000000000000#64 184#64) opened,
        exec (.tsHdr true true true 0x3F45#64 0#64 0#64 0#64 184#64) opened,
        exec (.pesHdr 0xE0#8 0x3FF3#64 14#64 0#64 0#64 0#64) opened,
        exec (.pack false false 0x40BB#64 1#64 0#64 0#64 0#64 0#64) opened,
        exec (.pack true false 0x4177#64 169#64 0#64 0#64 0#64 0#64) opened,
        exec (.append false false 0x103F#64 1#64 0#64 0#64)
          { opened with video := { opened.video with wrCur := 63#32 } },
        exec (.acceptV false 0x1000#64 1#64 0#64) opened, exec (.acceptA 0x2000#64 1#64 0#64) opened],
      isOverlap o = true) ∧
    (∀ o ∈ [exec (.bwInit 0x5000#64 1#64) opened, exec (.pat 0x3F44#64 0#64) opened,
        exec (.pack true false 0x4178#64 169#64 0#64 0#64 0#64 0#64) opened],
      isOverlap o = false) :=
  ⟨writingInside_bw_ok, by decide +kernel⟩

theorem witness_StepKeepsMemoryCanonical :
    filled.mem.wf = true ∧ errOf (step (filled.sendCommand (.pat 0x3000#64 0#64))) = some .ok := by
  decide +kernel

theorem witness_StepKeepsTheGoodState :
    filled.Ok ∧ (nextOf (step filled)).isSome = true := ⟨filled_ok, by decide +kernel⟩

theorem witness_GoodStatesNeverFault : filled.Ok := filled_ok

theorem witness_RunsFromResetNeverFault : Memory.wf [(0x1000, 0xFF#8)] = true := by decide +kernel

theorem witness_WritesStayInTheListedRegion :
    filled.Ok ∧ errOf (exec .remux filled) = some .ok ∧ (footprint filled .remux).2 = 752 ∧
    footprint filled (.pesHdr 0xC0#8 0#64 19#64 0#64 0#64 0#64) = (0, 14) ∧
    footprint filled (.pesHdr 0xC0#8 0#64 19#64 0#64 0x3FF0000000000000#64 0#64) = (0, 19) ∧
    footprint filled (.pack true false 0#64 500#64 0#64 0#64 0xE0#64 0x1002#64) = (0x4000, 564) :=
  ⟨filled_ok, by decide +kernel⟩

/-- `opened` with a video frame at 1.0 s and three audio frames of one byte at 0.0 s, which `REPEAT` moves to 1.0 s;
audio goes in batches of two. -/
def batched : State :=
  { opened with
    audioBatch := 2#32
    video := { opened.video with
      nFrames := 1#32, wrCur := 3#32, infos := [⟨0x3FF0000000000000#64, 0x3FF0000000000000#64, true⟩]
      extents := [⟨0#32, 3#32⟩] }
    audio := { opened.audio with
      repeatSeg := true, nFrames := 3#32, wrCur := 3#32, infos := List.replicate 3 ⟨0#64, 0#64, true⟩
      extents := [⟨0#32, 1#32⟩, ⟨1#32, 1#32⟩, ⟨2#32, 1#32⟩] }
    mem := opened.mem.writeBytes 0x2000 [0xAA#8, 0xBB#8, 0xCC#8] }

theorem batched_ok : batched.Ok where
  mem := by decide +kernel
  phase := rfl
  config := by constructor <;> decide +kernel
  writer h := absurd h (by decide)
  video := by constructor <;> decide +kernel
  audio := by constructor <;> decide +kernel
  outSize := by decide
  outFits := by decide
  regions := by decide +kernel
  offEmpty := by decide

/-- 46_selector.md R206, R210 by hand: the first audio turn sends two frames in one PES packet of stream 0xC0, stamped
117000 ticks (1.0 s and the bias); a second turn sends the third frame. -/
theorem witness_RemuxTakesTheTurnsInOrder :
    batched.Ok ∧ errOf (exec .remux batched) = some .ok ∧
    bytesOf (exec .remux batched) 0x42E0 16 = some [0x00, 0x00, 0x01, 0xC0, 0x00, 0x0A, 0x80, 0x80, 0x05,
      0x21, 0x00, 0x07, 0x92, 0x11, 0xAA, 0xBB] ∧
    (nextOf (exec .remux batched)).map (fun s => (s.outPkts, s.audio.framesWritten, s.audio.rdCur)) =
      some (5#32, 3#32, 3#32) :=
  ⟨batched_ok, by decide +kernel⟩

/-- 70_reset_and_hazards.md R285 at its edges: the host owns exactly the bytes of a stream that stands; without one
it owns none of the output region, and the track buffers never. -/
theorem test_host_owns_the_stream :
    let s : State := { opened with outValid := true, outWr := 376#32 }
    s.hostMayWrite 0x4000 376 = true ∧ s.hostMayWrite 0x4000 377 = false ∧ s.hostMayWrite 0x4178 1 = false ∧
    s.hostMayWrite 0x5000 1 = true ∧ s.hostMayWrite 0x103F 1 = false ∧
    ({ s with outValid := false } : State).hostMayWrite 0x4000 1 = false ∧
    ({ s with outValid := false, session := .off } : State).hostMayWrite 0x4000 1 = true ∧
    s.hostOwned = 376 ∧ ({ s with outValid := false } : State).hostOwned = 0 := by decide +kernel

end Sys2Proof.Tests
end

section

/-! Binary64 arithmetic (00_scope.md R12): what one rounding gives, and how the operations use it. Values are
integers in units of 2^-1074, as `f64Int` counts them. -/

namespace Sys2Proof.Machine

/-! ## Signs -/

/-- A sign bit applied to a number. -/
def withSign (neg : Bool) (v : Int) : Int := if neg then -v else v

@[simp] theorem withSign_true (v : Int) : withSign true v = -v := rfl

@[simp] theorem withSign_false (v : Int) : withSign false v = v := rfl

theorem f64Int_eq_withSign (a : Word64) : f64Int a = withSign (f64Sign a) (f64Units a) := rfl

@[simp] theorem natAbs_withSign (neg : Bool) (v : Int) : (withSign neg v).natAbs = v.natAbs := by
  cases neg <;> simp

theorem withSign_mul_withSign (s t : Bool) (v w : Int) :
    withSign s v * withSign t w = withSign (s ^^ t) (v * w) := by
  cases s <;> cases t <;> simp

theorem withSign_mul (s : Bool) (v w : Int) : withSign s v * w = withSign s (v * w) := by
  cases s <;> simp

theorem withSign_sub (s : Bool) (v w : Int) : withSign s (v - w) = withSign s v - withSign s w := by
  cases s
  · rfl
  · exact neg_sub' v w

theorem withSign_withSign (s : Bool) (v : Int) : withSign s (withSign s v) = v := by
  cases s <;> simp

theorem withSign_sign_natAbs (v : Int) : withSign (decide (v < 0)) v.natAbs = v := by
  by_cases hv : v < 0
  · simp only [hv, decide_true, withSign_true]
    omega
  · simp only [hv, decide_false, withSign_false]
    omega

/-! ## The fields of a pattern -/

/-- The low 63 bits: exponent and fraction fields. -/
def f64Low (a : Word64) : Nat := a.toNat % 2 ^ 63

theorem f64Exp_eq_low (a : Word64) : f64Exp a = f64Low a / 2 ^ 52 := by
  simp only [f64Exp, f64Low]
  omega

theorem f64Frac_eq_low (a : Word64) : f64Frac a = f64Low a % 2 ^ 52 := by
  simp only [f64Frac, f64Low]
  omega

theorem finite_iff (a : Word64) : finite a = true ↔ f64Low a < 2047 * 2 ^ 52 := by
  have hlow : f64Low a < 2 ^ 63 := Nat.mod_lt _ (by decide)
  simp only [finite, bne_iff_ne, f64Exp_eq_low]
  omega

theorem isNaN_of_finite {a : Word64} (h : finite a = true) : isNaN a = false := by
  simp_all [finite, isNaN]

theorem f64Key_eq_withSign (a : Word64) : f64Key a = withSign (f64Sign a) (f64Low a) := rfl

theorem toNat_f64OfMagnitude (neg : Bool) {b : Nat} (hb : b < 2 ^ 63) :
    (f64OfMagnitude neg b).toNat = (if neg then 2 ^ 63 else 0) + b := by
  rw [f64OfMagnitude, BitVec.toNat_ofNat, Nat.mod_eq_of_lt]
  cases neg <;> simp <;> omega

theorem f64Low_f64OfMagnitude (neg : Bool) {b : Nat} (hb : b < 2 ^ 63) :
    f64Low (f64OfMagnitude neg b) = b := by
  rw [f64Low, toNat_f64OfMagnitude neg hb]
  cases neg <;> simp <;> omega

theorem f64Sign_f64OfMagnitude (neg : Bool) {b : Nat} (hb : b < 2 ^ 63) :
    f64Sign (f64OfMagnitude neg b) = neg := by
  rw [f64Sign, BitVec.getLsbD, toNat_f64OfMagnitude neg hb, Nat.testBit_eq_decide_div_mod_eq]
  cases neg <;> simp <;> omega

/-! ## The magnitude that the low 63 bits stand for -/

/-- `f64Units` as a function of the low 63 bits (`f64Units_eq_low`). -/
def unitsOfLow (b : Nat) : Nat :=
  (if b / 2 ^ 52 = 0 then b % 2 ^ 52 else b % 2 ^ 52 + 2 ^ 52) * 2 ^ (b / 2 ^ 52 - 1)

theorem f64Units_eq_low (a : Word64) : f64Units a = unitsOfLow (f64Low a) := by
  simp only [f64Units, f64Mant, f64Scale, unitsOfLow, f64Exp_eq_low, f64Frac_eq_low]

/-- A significand `s` at scale `k` is the pattern `k * 2^52 + s`: the hidden bit of `s` raises the exponent field to
`k + 1`, and a carry to `s = 2^53` to `k + 2`. -/
theorem unitsOfLow_eq {k s : Nat} (hlo : k = 0 ∨ 2 ^ 52 ≤ s) (hhi : s ≤ 2 ^ 53) :
    unitsOfLow (k * 2 ^ 52 + s) = s * 2 ^ k := by
  rcases Nat.lt_or_ge s (2 ^ 52) with hsub | hnorm
  · obtain rfl : k = 0 := by omega
    have hexp : (0 * 2 ^ 52 + s) / 2 ^ 52 = 0 := by omega
    rw [unitsOfLow, hexp, if_pos rfl, Nat.zero_mul, Nat.zero_add, Nat.mod_eq_of_lt hsub]
  rcases Nat.lt_or_eq_of_le hhi with hlt | rfl
  · have hexp : (k * 2 ^ 52 + s) / 2 ^ 52 = k + 1 := by omega
    have hfrac : (k * 2 ^ 52 + s) % 2 ^ 52 + 2 ^ 52 = s := by omega
    rw [unitsOfLow, hexp, if_neg k.succ_ne_zero, hfrac, Nat.add_sub_cancel]
  · have hexp : (k * 2 ^ 52 + 2 ^ 53) / 2 ^ 52 = k + 2 := by omega
    have hfrac : (k * 2 ^ 52 + 2 ^ 53) % 2 ^ 52 = 0 := by omega
    have hscale : 52 + (k + 2 - 1) = 53 + k := by omega
    rw [unitsOfLow, hexp, if_neg (k + 1).succ_ne_zero, hfrac, Nat.zero_add, ← pow_add, ← pow_add, hscale]

/-- Every pattern is a significand at a scale, in the form of `unitsOfLow_eq`, and below the carry. -/
theorem exists_significand (b : Nat) :
    ∃ k s, b = k * 2 ^ 52 + s ∧ (k = 0 ∨ 2 ^ 52 ≤ s) ∧ s < 2 ^ 53 := by
  rcases Nat.lt_or_ge b (2 ^ 52) with hsub | hnorm
  · exact ⟨0, b, by omega, .inl rfl, by omega⟩
  · exact ⟨b / 2 ^ 52 - 1, b % 2 ^ 52 + 2 ^ 52, by omega, .inr (by omega), by omega⟩

theorem unitsOfLow_strictMono : StrictMono unitsOfLow := by
  refine strictMono_nat_of_lt_succ fun b => ?_
  obtain ⟨k, s, rfl, hlo, hhi⟩ := exists_significand b
  have hnext : unitsOfLow (k * 2 ^ 52 + (s + 1)) = (s + 1) * 2 ^ k := unitsOfLow_eq (by omega) hhi
  rw [Nat.add_assoc, hnext, unitsOfLow_eq hlo hhi.le]
  exact Nat.mul_lt_mul_of_pos_right s.lt_succ_self (Nat.two_pow_pos k)

theorem unitsOfLow_eq_zero {b : Nat} : unitsOfLow b = 0 ↔ b = 0 :=
  unitsOfLow_strictMono.injective.eq_iff' rfl

theorem f64Units_eq_zero_of_isZero {a : Word64} (h : isZero a = true) : f64Units a = 0 := by
  simp_all [isZero, f64Units, f64Mant]

theorem f64Int_eq_zero (a : Word64) : f64Int a = 0 ↔ f64Units a = 0 := by
  rw [← Int.natAbs_eq_zero, f64Int_eq_withSign, natAbs_withSign, Int.natAbs_natCast]

/-- `flt` is the order of the numbers: signed patterns and signed values are ordered alike, since `unitsOfLow` is
strictly increasing from 0. -/
theorem f64Key_lt_iff (a b : Word64) : f64Key a < f64Key b ↔ f64Int a < f64Int b := by
  have hlt : ∀ x y, unitsOfLow x < unitsOfLow y ↔ x < y := fun _ _ => unitsOfLow_strictMono.lt_iff_lt
  have hzero : unitsOfLow 0 = 0 := unitsOfLow_eq_zero.mpr rfl
  have hab := hlt (f64Low a) (f64Low b)
  have hba := hlt (f64Low b) (f64Low a)
  have ha := hlt 0 (f64Low a)
  have hb := hlt 0 (f64Low b)
  rw [hzero] at ha hb
  simp only [f64Key_eq_withSign, f64Int_eq_withSign, f64Units_eq_low]
  cases f64Sign a <;> cases f64Sign b <;> simp only [withSign_true, withSign_false] <;> omega

theorem flt_iff {a b : Word64} (ha : finite a = true) (hb : finite b = true) :
    flt a b = true ↔ f64Int a < f64Int b := by
  simp [flt, isNaN_of_finite ha, isNaN_of_finite hb, f64Key_lt_iff]

/-! ## Correct rounding -/

/-- A value with a significand below 2^53: what a finite pattern can hold, with no bound on the scale. -/
def Representable (y : Int) : Prop := ∃ k e : Nat, y.natAbs = k * 2 ^ e ∧ k < 2 ^ 53

theorem representable_f64Int (a : Word64) : Representable (f64Int a) := by
  obtain ⟨k, s, hlow, hlo, hhi⟩ := exists_significand (f64Low a)
  refine ⟨s, k, ?_, hhi⟩
  rw [f64Int_eq_withSign, natAbs_withSign, Int.natAbs_natCast, f64Units_eq_low, hlow, unitsOfLow_eq hlo hhi.le]

@[simp] theorem representable_withSign (s : Bool) (y : Int) : Representable (withSign s y) ↔ Representable y := by
  rw [Representable, natAbs_withSign, Representable]

/-- `r` is a nearest representable value to `num / den`, and `even` holds where another one is equally near. -/
def IsRounding (r num den : Int) (even : Prop) : Prop :=
  ∀ y : Int, Representable y → (r * den - num).natAbs ≤ (y * den - num).natAbs ∧
    ((r * den - num).natAbs = (y * den - num).natAbs → y ≠ r → even)

theorem nearestTo_of_isRounding {r : Word64} {num den : Int}
    (h : IsRounding (f64Int r) num den (f64Frac r % 2 = 0)) : nearestTo r num den :=
  fun x _ => h (f64Int x) (representable_f64Int x)

/-- Rounding to nearest, ties to even, is symmetric in the signs. -/
theorem isRounding_withSign {r num den : Int} {even : Prop} (h : IsRounding r num den even) (s t : Bool) :
    IsRounding (withSign s r) (withSign (s ^^ t) num) (withSign t den) even := by
  have hdist (z : Int) : (withSign s z * withSign t den - withSign (s ^^ t) num).natAbs =
      (z * den - num).natAbs := by
    rw [withSign_mul_withSign, ← withSign_sub, natAbs_withSign]
  intro y hy
  obtain ⟨z, rfl⟩ : ∃ z, y = withSign s z := ⟨withSign s y, (withSign_withSign s y).symm⟩
  obtain ⟨hle, htie⟩ := h z ((representable_withSign s z).mp hy)
  rw [hdist, hdist]
  exact ⟨hle, fun heq hne => htie heq fun hzr => hne (by rw [hzr])⟩

/-- Of two candidates the nearer one is told by the side of their midpoint on which `num / den` lies. -/
theorem natAbs_le_iff_midpoint {den : Int} (hden : 0 < den) (r y num : Int) :
    (r * den - num).natAbs ≤ (y * den - num).natAbs ↔ 0 ≤ (y - r) * ((r + y) * den - 2 * num) := by
  have hsq : (y * den - num) ^ 2 - (r * den - num) ^ 2 = den * ((y - r) * ((r + y) * den - 2 * num)) := by ring
  rw [Int.natAbs_le_iff_sq_le, ← sub_nonneg, hsq, mul_nonneg_iff_of_pos_left hden]

theorem natAbs_eq_iff_midpoint {den : Int} (hden : 0 < den) (r y num : Int) :
    (r * den - num).natAbs = (y * den - num).natAbs ↔ (y - r) * ((r + y) * den - 2 * num) = 0 := by
  have hsq : (r * den - num) ^ 2 - (y * den - num) ^ 2 = -(den * ((y - r) * ((r + y) * den - 2 * num))) := by ring
  rw [Int.natAbs_eq_iff_sq_eq, ← sub_eq_zero, hsq, neg_eq_zero, mul_eq_zero_iff_left hden.ne']

/-- Two quotients on the same side of every midpoint round alike. -/
theorem IsRounding.of_sign_eq {r num den num' den' : Int} {even : Prop} (h : IsRounding r num den even)
    (hden : 0 < den) (hden' : 0 < den')
    (hsign : ∀ c : Int, (c * den - 2 * num).sign = (c * den' - 2 * num').sign) : IsRounding r num' den' even := by
  intro y hy
  have hside : ((y - r) * ((r + y) * den - 2 * num)).sign = ((y - r) * ((r + y) * den' - 2 * num')).sign := by
    rw [Int.sign_mul, Int.sign_mul, hsign]
  have hnear := h y hy
  rw [natAbs_le_iff_midpoint hden, natAbs_eq_iff_midpoint hden, ← Int.sign_nonneg_iff, ← Int.sign_eq_zero_iff_zero,
    hside, Int.sign_nonneg_iff, Int.sign_eq_zero_iff_zero] at hnear
  rwa [natAbs_le_iff_midpoint hden', natAbs_eq_iff_midpoint hden']

/-- `n` lies between the midpoints below and above the multiple of 2^d that `roundShift n d` picks, and on one of them
only where that multiple is even. -/
theorem roundShift_between_midpoints (n d : Nat) :
    2 * n ≤ 2 * (roundShift n d * 2 ^ d) + 2 ^ d ∧ 2 * (roundShift n d * 2 ^ d) ≤ 2 * n + 2 ^ d ∧
      (2 * n = 2 * (roundShift n d * 2 ^ d) + 2 ^ d ∨ 2 * (roundShift n d * 2 ^ d) = 2 * n + 2 ^ d →
        roundShift n d % 2 = 0) := by
  have hsplit := Nat.div_add_mod' n (2 ^ d)
  have hlost := Nat.mod_lt n (Nat.two_pow_pos d)
  simp only [roundShift]
  split
  · rw [Nat.add_one_mul (n / 2 ^ d)]
    omega
  · omega

/-- `roundShift n d` is a multiplier of 2^d nearest to `n`, the even one where two are equally near. -/
theorem roundShift_nearest (n d : Nat) (j : Int) :
    ((roundShift n d : Int) * 2 ^ d - n).natAbs ≤ (j * 2 ^ d - n).natAbs ∧
      (((roundShift n d : Int) * 2 ^ d - n).natAbs = (j * 2 ^ d - n).natAbs → j ≠ roundShift n d →
        roundShift n d % 2 = 0) := by
  obtain ⟨habove, hbelow, htie⟩ := roundShift_between_midpoints n d
  generalize roundShift n d = r at *
  have hpow : (0 : Int) < 2 ^ d := by positivity
  zify at habove hbelow htie
  rw [natAbs_le_iff_midpoint hpow, natAbs_eq_iff_midpoint hpow]
  obtain hlt | rfl | hgt := lt_trichotomy j r
  · have hmid : (r + j) * 2 ^ d ≤ 2 * (r * 2 ^ d) - 2 ^ d := by nlinarith
    refine ⟨mul_nonneg_of_nonpos_of_nonpos (by omega) (by omega), fun heq hne => ?_⟩
    have hon := (mul_eq_zero.mp heq).resolve_left (sub_ne_zero.mpr hne)
    exact_mod_cast htie (.inr (by omega))
  · exact ⟨by rw [sub_self, zero_mul], fun _ hne => absurd rfl hne⟩
  · have hmid : 2 * (r * 2 ^ d) + 2 ^ d ≤ (r + j) * 2 ^ d := by nlinarith
    refine ⟨mul_nonneg (by omega) (by omega), fun heq hne => ?_⟩
    have hon := (mul_eq_zero.mp heq).resolve_left (sub_ne_zero.mpr hne)
    exact_mod_cast htie (.inl (by omega))

/-- The last place that `f64Round` keeps of `m * 2^-(1074 + u)`, counted from 2^-(1074 + u). -/
def lastPlace (m u : Nat) : Nat := max (Nat.log2 m - 52) u

/-- The magnitude that `f64Round` gives for `m * 2^-(1074 + u)` (`f64Int_f64Round`). -/
def roundedUnits (m u : Nat) : Nat := roundShift m (lastPlace m u) * 2 ^ (lastPlace m u - u)

/-- The low 63 bits that `f64Round` gives, overflow aside: the significand is added to the exponent field. -/
def roundedBits (m u : Nat) : Nat := (lastPlace m u - u) * 2 ^ 52 + roundShift m (lastPlace m u)

theorem le_lastPlace (m u : Nat) : u ≤ lastPlace m u := Nat.le_max_right ..

theorem lt_two_pow_lastPlace (m u : Nat) : m < 2 ^ 53 * 2 ^ lastPlace m u := by
  rw [← pow_add]
  refine Nat.lt_log2_self.trans_le (Nat.pow_le_pow_right Nat.two_pos ?_)
  have : Nat.log2 m - 52 ≤ lastPlace m u := Nat.le_max_left ..
  omega

/-- A last place above the least one was chosen to leave 53 significant bits. -/
theorem two_pow_lastPlace_le {m u : Nat} (h : lastPlace m u ≠ u) : 2 ^ 52 * 2 ^ lastPlace m u ≤ m := by
  have hlog : lastPlace m u + 52 = Nat.log2 m := by simp only [lastPlace] at *; omega
  have hm : m ≠ 0 := by rintro rfl; simp at hlog
  rw [← pow_add, Nat.add_comm, hlog]
  exact Nat.log2_self_le hm

theorem roundShift_le {n d b : Nat} (h : n < b * 2 ^ d) : roundShift n d ≤ b := by
  have hkept : n / 2 ^ d < b := Nat.div_lt_of_lt_mul (by rwa [Nat.mul_comm])
  simp only [roundShift]
  split <;> omega

theorem le_roundShift {n d b : Nat} (h : b * 2 ^ d ≤ n) : b ≤ roundShift n d := by
  have hkept : b ≤ n / 2 ^ d := (Nat.le_div_iff_mul_le (Nat.two_pow_pos d)).mpr h
  simp only [roundShift]
  split <;> omega

theorem roundShift_lastPlace_le (m u : Nat) : roundShift m (lastPlace m u) ≤ 2 ^ 53 :=
  roundShift_le (lt_two_pow_lastPlace m u)

theorem le_roundShift_lastPlace (m u : Nat) :
    lastPlace m u - u = 0 ∨ 2 ^ 52 ≤ roundShift m (lastPlace m u) := by
  by_cases h : lastPlace m u = u
  · exact .inl (by omega)
  · exact .inr (le_roundShift (two_pow_lastPlace_le h))

/-- A representable value is a multiple of the last place, or lies below the binade of `m`. -/
theorem Representable.multiple_or_below {y : Int} (hy : Representable y) (m u : Nat) :
    (∃ j : Int, y * 2 ^ u = j * 2 ^ lastPlace m u) ∨
      (y * 2 ^ u < 2 ^ 52 * 2 ^ lastPlace m u ∧ 2 ^ 52 * 2 ^ lastPlace m u ≤ m) := by
  obtain ⟨k, e, hke, hk⟩ := hy
  rcases Nat.lt_or_ge (e + u) (lastPlace m u) with hsmall | hbig
  · right
    have hbin := two_pow_lastPlace_le (m := m) (u := u) (by omega)
    refine ⟨?_, hbin⟩
    have hnat : y.natAbs * 2 ^ u < 2 ^ 52 * 2 ^ lastPlace m u := calc
      y.natAbs * 2 ^ u = k * 2 ^ (e + u) := by rw [hke, Nat.mul_assoc, ← pow_add]
      _ < 2 ^ 53 * 2 ^ (e + u) := Nat.mul_lt_mul_of_pos_right hk (Nat.two_pow_pos _)
      _ = 2 ^ 52 * 2 ^ (e + u + 1) := by ring
      _ ≤ 2 ^ 52 * 2 ^ lastPlace m u :=
        Nat.mul_le_mul_left _ (Nat.pow_le_pow_right Nat.two_pos hsmall)
    calc y * 2 ^ u ≤ (y.natAbs : Int) * 2 ^ u :=
          mul_le_mul_of_nonneg_right Int.le_natAbs (by positivity)
      _ < 2 ^ 52 * 2 ^ lastPlace m u := by exact_mod_cast hnat
  · left
    obtain ⟨c, hc⟩ : ((2 : Int) ^ lastPlace m u) ∣ y * 2 ^ u := by
      have hy' : ((2 : Int) ^ e) ∣ y := Int.dvd_natAbs.mp ⟨k, by rw [hke]; push_cast; ring⟩
      exact (pow_dvd_pow 2 hbig).trans (by rw [pow_add]; exact mul_dvd_mul_right hy' _)
    exact ⟨c, by rw [hc, mul_comm]⟩

/-- `f64Round` rounds correctly, overflow aside. -/
theorem roundedUnits_isRounding (m u : Nat) :
    IsRounding (roundedUnits m u) m (2 ^ u) (roundShift m (lastPlace m u) % 2 = 0) := by
  have hscale : (roundedUnits m u : Int) * 2 ^ u = roundShift m (lastPlace m u) * 2 ^ lastPlace m u := by
    simp only [roundedUnits]
    push_cast
    rw [mul_assoc, ← pow_add, Nat.sub_add_cancel (le_lastPlace m u)]
  have hnear := roundShift_nearest m (lastPlace m u)
  intro y hy
  rw [hscale]
  rcases hy.multiple_or_below m u with ⟨j, hj⟩ | ⟨hbelow, hbin⟩
  · rw [hj]
    obtain ⟨hle, htie⟩ := hnear j
    refine ⟨hle, fun heq hne => htie heq fun hjr => hne ?_⟩
    rw [hjr, ← hscale] at hj
    exact mul_right_cancel₀ (by positivity) hj
  · have hedge := (hnear (2 ^ 52)).1
    have hbin' : (2 : Int) ^ 52 * 2 ^ lastPlace m u ≤ m := by exact_mod_cast hbin
    omega

theorem unitsOfLow_roundedBits (m u : Nat) : unitsOfLow (roundedBits m u) = roundedUnits m u :=
  unitsOfLow_eq (le_roundShift_lastPlace m u) (roundShift_lastPlace_le m u)

theorem f64Round_of_lt {neg : Bool} {m u : Nat} (h : roundedBits m u < 2047 * 2 ^ 52) :
    f64Round neg m u = f64OfMagnitude neg (roundedBits m u) :=
  if_pos h

theorem f64Round_of_ge {neg : Bool} {m u : Nat} (h : ¬ roundedBits m u < 2047 * 2 ^ 52) :
    f64Round neg m u = f64Inf neg :=
  if_neg h

theorem finite_f64Round_iff (neg : Bool) (m u : Nat) :
    finite (f64Round neg m u) = true ↔ roundedBits m u < 2047 * 2 ^ 52 := by
  rw [finite_iff]
  by_cases h : roundedBits m u < 2047 * 2 ^ 52
  · rw [f64Round_of_lt h, f64Low_f64OfMagnitude neg (by omega)]
  · rw [f64Round_of_ge h, f64Inf, f64Low_f64OfMagnitude neg (by decide)]
    omega

theorem f64Int_f64Round {neg : Bool} {m u : Nat} (h : finite (f64Round neg m u) = true) :
    f64Int (f64Round neg m u) = withSign neg (roundedUnits m u) := by
  have hbits := (finite_f64Round_iff neg m u).mp h
  rw [f64Round_of_lt hbits, f64Int_eq_withSign, f64Units_eq_low, f64Sign_f64OfMagnitude neg (by omega),
    f64Low_f64OfMagnitude neg (by omega), unitsOfLow_roundedBits]

theorem f64Frac_f64Round {neg : Bool} {m u : Nat} (h : finite (f64Round neg m u) = true) :
    f64Frac (f64Round neg m u) % 2 = roundShift m (lastPlace m u) % 2 := by
  have hbits := (finite_f64Round_iff neg m u).mp h
  rw [f64Round_of_lt hbits, f64Frac_eq_low, f64Low_f64OfMagnitude neg (by omega), roundedBits]
  omega

/-- A rounding of the magnitude `num / den` gives a rounding of the signed quotient. -/
theorem nearestTo_f64Round {neg : Bool} {m u : Nat} {num den : Int} (hfin : finite (f64Round neg m u) = true)
    (h : IsRounding (roundedUnits m u) num den (roundShift m (lastPlace m u) % 2 = 0)) (t : Bool) :
    nearestTo (f64Round neg m u) (withSign (neg ^^ t) num) (withSign t den) := by
  apply nearestTo_of_isRounding
  rw [f64Int_f64Round hfin, f64Frac_f64Round hfin]
  exact isRounding_withSign h neg t

/-! ## The operations -/

theorem f64Int_f64OfMagnitude_zero (neg : Bool) : f64Int (f64OfMagnitude neg 0) = 0 := by
  rw [f64Int_eq_zero, f64Units_eq_low, f64Low_f64OfMagnitude neg (by decide), unitsOfLow_eq_zero]

theorem fadd_eq {a b : Word64} (ha : finite a = true) (hb : finite b = true) :
    fadd a b = if f64Int a + f64Int b = 0 then f64OfMagnitude (f64Sign a && f64Sign b) 0
      else f64Round (decide (f64Int a + f64Int b < 0)) (f64Int a + f64Int b).natAbs 0 := by
  simp [fadd, isNaN_of_finite ha, isNaN_of_finite hb, ha, hb]

theorem fmul_eq {a b : Word64} (ha : finite a = true) (hb : finite b = true) :
    fmul a b = f64Round (f64Sign a ^^ f64Sign b) (f64Units a * f64Units b) 1074 := by
  simp only [fmul, isNaN_of_finite ha, isNaN_of_finite hb, ha, hb, Bool.or_self, Bool.and_self,
    Bool.false_eq_true, if_false, if_true]

/-- The integer that `fdiv` rounds: the quotient `n / d` with two more bits, the lower one sticky. -/
def stickyQuotient (n d : Nat) : Nat := 2 * (n * 2 / d) + if n * 2 % d = 0 then 0 else 1

theorem fdiv_eq {a b : Word64} (ha : finite a = true) (hb : finite b = true) (hzero : isZero b = false) :
    fdiv a b =
      f64Round (f64Sign a ^^ f64Sign b) (stickyQuotient (f64Units a * 2 ^ 1074) (f64Units b)) 2 := by
  have hshift : f64Units a * 2 ^ 1075 = f64Units a * 2 ^ 1074 * 2 := by rw [pow_succ, Nat.mul_assoc]
  simp only [fdiv, isNaN_of_finite ha, isNaN_of_finite hb, ha, hb, hzero, stickyQuotient, hshift, Bool.or_self,
    Bool.and_self, Bool.false_eq_true, if_false, if_true]

/-- The sticky bit says on which side of every half integer the quotient lies. -/
theorem sign_sub_stickyQuotient {n d : Nat} (hd : 0 < d) (c : Int) :
    (c * 2 ^ 2 - 2 * stickyQuotient n d).sign = (c * d - 2 * n).sign := by
  have hsplit : (n * 2 : Int) = d * (n * 2 / d : Nat) + (n * 2 % d : Nat) := by
    exact_mod_cast (Nat.div_add_mod (n * 2) d).symm
  have hmod := Nat.mod_lt (n * 2) hd
  simp only [stickyQuotient]
  generalize n * 2 / d = q at *
  generalize n * 2 % d = rest at *
  have hdist : c * d - 2 * n = (c - q) * d - rest := by linear_combination -hsplit
  rw [hdist]
  obtain hlt | rfl | hgt := lt_trichotomy c q
  · have hneg : (c - q) * d < 0 := mul_neg_of_neg_of_pos (by omega) (by omega)
    rw [Int.sign_eq_neg_one_of_neg (by split <;> omega), Int.sign_eq_neg_one_of_neg (by omega)]
  · rw [sub_self, zero_mul, zero_sub]
    rcases Nat.eq_zero_or_pos rest with rfl | hpos
    · simp only [if_true]
      congr 1
      omega
    · rw [if_neg (by omega), Int.sign_eq_neg_one_of_neg (by omega), Int.sign_eq_neg_one_of_neg (by omega)]
  · have hpos : (d : Int) ≤ (c - q) * d := le_mul_of_one_le_left (by omega) (by omega)
    rw [Int.sign_eq_one_of_pos (by split <;> omega), Int.sign_eq_one_of_pos (by omega)]

/-- A rounding of the quotient with its sticky bit is one of the exact quotient. -/
theorem IsRounding.of_stickyQuotient {r : Int} {n d : Nat} {even : Prop} (hd : 0 < d)
    (h : IsRounding r (stickyQuotient n d) (2 ^ 2) even) : IsRounding r n d even :=
  h.of_sign_eq (by decide) (by omega) (sign_sub_stickyQuotient hd)

theorem nearestTo_fadd {a b : Word64} (ha : finite a = true) (hb : finite b = true)
    (hfin : finite (fadd a b) = true) : nearestTo (fadd a b) (f64Int a + f64Int b) 1 := by
  rw [fadd_eq ha hb] at hfin ⊢
  generalize f64Int a + f64Int b = v at *
  by_cases hv : v = 0
  · rw [if_pos hv]
    intro x _
    simp only [f64Int_f64OfMagnitude_zero, hv]
    omega
  · rw [if_neg hv] at hfin ⊢
    have hround := nearestTo_f64Round hfin (roundedUnits_isRounding _ 0) false
    rwa [Bool.xor_false, withSign_sign_natAbs, withSign_false, pow_zero] at hround

theorem nearestTo_fmul {a b : Word64} (ha : finite a = true) (hb : finite b = true)
    (hfin : finite (fmul a b) = true) : nearestTo (fmul a b) (f64Int a * f64Int b) (2 ^ 1074) := by
  rw [fmul_eq ha hb] at hfin ⊢
  have hround := nearestTo_f64Round hfin (roundedUnits_isRounding _ 1074) false
  rwa [Bool.xor_false, withSign_false, Nat.cast_mul, ← withSign_mul_withSign, ← f64Int_eq_withSign,
    ← f64Int_eq_withSign] at hround

theorem nearestTo_fdiv {a b : Word64} (ha : finite a = true) (hb : finite b = true) (hb0 : f64Int b ≠ 0)
    (hfin : finite (fdiv a b) = true) : nearestTo (fdiv a b) (f64Int a * 2 ^ 1074) (f64Int b) := by
  have hunits : f64Units b ≠ 0 := mt (f64Int_eq_zero b).mpr hb0
  have hzero : isZero b = false := Bool.eq_false_iff.mpr (mt f64Units_eq_zero_of_isZero hunits)
  rw [fdiv_eq ha hb hzero] at hfin ⊢
  have hexact := IsRounding.of_stickyQuotient (Nat.pos_of_ne_zero hunits)
    (roundedUnits_isRounding (stickyQuotient (f64Units a * 2 ^ 1074) (f64Units b)) 2)
  have hround := nearestTo_f64Round hfin hexact (f64Sign b)
  rwa [Bool.xor_assoc, Bool.xor_self, Bool.xor_false, Nat.cast_mul, ← withSign_mul, Nat.cast_pow,
    ← f64Int_eq_withSign, ← f64Int_eq_withSign] at hround

/-- A representable value is its own nearest one. -/
theorem f64Int_f64Round_exact {neg : Bool} {m : Nat} (hm : Representable m)
    (hfin : finite (f64Round neg m 0) = true) : f64Int (f64Round neg m 0) = withSign neg m := by
  have hself := (roundedUnits_isRounding m 0 m hm).1
  rw [pow_zero, mul_one, mul_one, sub_self, Int.natAbs_zero] at hself
  have hexact : (roundedUnits m 0 : Int) = m := by omega
  rw [f64Int_f64Round hfin, hexact]

theorem f64Int_f64OfNat {n : Nat} (hn : n < 2 ^ 53) (hfin : finite (f64OfNat n) = true) :
    f64Int (f64OfNat n) = n * 2 ^ 1074 := by
  have hrep : Representable ((n * 2 ^ 1074 : Nat) : Int) := ⟨n, 1074, Int.natAbs_natCast _, hn⟩
  rw [f64OfNat, f64Int_f64Round_exact hrep hfin, withSign_false, Nat.cast_mul, Nat.cast_pow, Nat.cast_ofNat]

theorem lastPlace_mul_two_pow_le {n : Nat} (hn : n < 2 ^ 53) (e : Nat) : lastPlace (n * 2 ^ e) 0 ≤ e := by
  have hlog : Nat.log2 (n * 2 ^ e) < 53 + e := by
    rcases Nat.eq_zero_or_pos n with rfl | hpos
    · rw [Nat.zero_mul, Nat.log2_zero]
      omega
    · rw [Nat.log2_lt (by positivity), pow_add]
      exact Nat.mul_lt_mul_of_pos_right hn (Nat.two_pow_pos e)
  simp only [lastPlace]
  omega

theorem finite_f64OfNat {n : Nat} (hn : n < 2 ^ 53) : finite (f64OfNat n) = true := by
  have hplace := lastPlace_mul_two_pow_le hn 1074
  have hsig := roundShift_lastPlace_le (n * 2 ^ 1074) 0
  rw [f64OfNat, finite_f64Round_iff, roundedBits]
  omega

/-- Truncation toward zero divides the magnitude. -/
theorem withSign_tdiv (neg : Bool) (n d : Nat) :
    (withSign neg n).tdiv d = withSign neg (n / d : Nat) := by
  cases neg <;> simp [Int.neg_tdiv]

theorem ftoi_eq (a : Word64) :
    ftoi a = if finite a = true ∧ (f64Int a).natAbs < 2 ^ 63 * 2 ^ 1074 then some ((f64Int a).tdiv (2 ^ 1074))
      else none := by
  have htrunc := withSign_tdiv (f64Sign a) (f64Units a) (2 ^ 1074)
  rw [Nat.cast_pow, Nat.cast_ofNat] at htrunc
  rw [f64Int_eq_withSign, natAbs_withSign, Int.natAbs_natCast, ← pow_add, htrunc]
  rfl

/-- Settles O30, by `nearestTo_f64Round` for the three operations and strict growth of the magnitude for `flt`. -/
theorem binary64ArithmeticIsCorrectlyRounded : Obligations.Binary64ArithmeticIsCorrectlyRounded :=
  ⟨fun _ _ ha hb =>
    ⟨nearestTo_fadd ha hb, nearestTo_fmul ha hb, nearestTo_fdiv ha hb, flt_iff ha hb⟩,
   fun _ hn => ⟨finite_f64OfNat hn, f64Int_f64OfNat hn (finite_f64OfNat hn)⟩, ftoi_eq⟩

end Sys2Proof.Machine
end

section

/-! What a command reads of earlier reports: nothing but through `RDREG` (10_state.md R22, R23, R26). A state with
its four report fields replaced is carried through every operation beside the state itself. -/

namespace Sys2Proof.Machine

/-! ## Replacing the reports of earlier commands -/

/-- What earlier commands reported: `STATUS.ERR`, `ERRLOG`, `RES0` and `RES1`. -/
structure Reports where
  err : ErrCode
  errlog : Word32
  res0 : Word64
  res1 : Word64

/-- `s` with other reports of earlier commands. -/
def State.withReports (s : State) (r : Reports) : State :=
  { s with err := r.err, errlog := r.errlog, res0 := r.res0, res1 := r.res1 }

section Fields
variable (s : State) (r : Reports)

@[simp] theorem State.withReports_psiCc : (s.withReports r).psiCc = s.psiCc := rfl
@[simp] theorem State.withReports_outBase : (s.withReports r).outBase = s.outBase := rfl
@[simp] theorem State.withReports_outCap : (s.withReports r).outCap = s.outCap := rfl
@[simp] theorem State.withReports_outWr : (s.withReports r).outWr = s.outWr := rfl
@[simp] theorem State.withReports_bw : (s.withReports r).bw = s.bw := rfl
@[simp] theorem State.withReports_track (t : TrackId) : (s.withReports r).track t = s.track t := by
  cases t <;> rfl
theorem State.withReports_setTrack (t : TrackId) (tr : TrackState) :
    (s.withReports r).setTrack t tr = (s.setTrack t tr).withReports r := by cases t <;> rfl
theorem State.withReports_writeReg (v : Word64) (reg : Reg) :
    (s.withReports r).writeReg v reg = (s.writeReg v reg).withReports r := by
  rcases reg with g | ⟨t, k⟩
  · cases g <;> rfl
  · cases t <;> rfl

@[simp] theorem State.withReports_load (a n : Nat) : (s.withReports r).load a n = s.load a n := rfl
@[simp] theorem State.withReports_pidOf (t : TrackId) : (s.withReports r).pidOf t = s.pidOf t := rfl
@[simp] theorem patPacket_withReports (c : Nat) : patPacket (s.withReports r) c = patPacket s c := rfl
@[simp] theorem pmtPacket_withReports (c : Nat) : pmtPacket (s.withReports r) c = pmtPacket s c := rfl
@[simp] theorem appendOverlap_withReports (t : TrackId) (src size : Word64) :
    appendOverlap t src size (s.withReports r) = appendOverlap t src size s := by simp [appendOverlap]

/-! What the selector computes from the tracks (46_selector.md R206, R209, R210). -/

@[simp] theorem State.withReports_nextFrame (t : TrackId) : (s.withReports r).nextFrame t = s.nextFrame t := by
  simp [State.nextFrame]
@[simp] theorem State.withReports_avail (t : TrackId) : (s.withReports r).avail t = s.avail t := by
  simp [State.avail]
@[simp] theorem State.withReports_extent (t : TrackId) (k : Nat) :
    (s.withReports r).extent t k = s.extent t k := by simp [State.extent]
@[simp] theorem State.withReports_effPts (t : TrackId) (i : Nat) :
    (s.withReports r).effPts t i = s.effPts t i := by cases t <;> rfl
@[simp] theorem State.withReports_effDts (t : TrackId) (i : Nat) :
    (s.withReports r).effDts t i = s.effDts t i := by cases t <;> rfl
@[simp] theorem State.withReports_select : (s.withReports r).select = s.select := rfl
@[simp] theorem State.withReports_batchSize (t : TrackId) : (s.withReports r).batchSize t = s.batchSize t := by
  cases t <;> rfl
@[simp] theorem State.withReports_batchBytes (t : TrackId) (k nb : Nat) :
    (s.withReports r).batchBytes t k nb = s.batchBytes t k nb := by
  induction nb generalizing k with
  | zero => rfl
  | succ nb ih => simp [State.batchBytes, ih]

end Fields

/-! ## Results of sub-steps -/

/-- The value of a result under `f`. -/
def Result.map {α β : Type} (f : α → β) : Result α → Result β
  | .ok a => .ok (f a)
  | .err e => .err e
  | .fault g => .fault g

@[simp] theorem Result.map_ok {α β : Type} (f : α → β) (a : α) : (Result.ok a).map f = .ok (f a) := rfl
@[simp] theorem Result.map_err {α β : Type} (f : α → β) (e : ErrCode) :
    (Result.err e : Result α).map f = .err e := rfl
@[simp] theorem Result.map_fault {α β : Type} (f : α → β) (g : Fault) :
    (Result.fault g : Result α).map f = .fault g := rfl

theorem Result.bind_of_map {α α' β β' : Type} (r : Result α) {f : α → α'} {g : β → β'} {k : α → Result β}
    {k' : α' → Result β'} (h : ∀ a, k' (f a) = (k a).map g) : (r.map f).bind k' = (r.bind k).map g := by
  cases r <;> simp [h]

theorem Result.bind_congr_map {α β β' : Type} (r : Result α) {g : β → β'} {k : α → Result β}
    {k' : α → Result β'} (h : ∀ a, k' a = (k a).map g) : r.bind k' = (r.bind k).map g := by
  cases r <;> simp [h]

/-- No result raises the code that stands for success. -/
def Result.ProperError {α : Type} (r : Result α) : Prop := r ≠ .err .ok

@[simp] theorem Result.properError_ok {α : Type} (a : α) : (Result.ok a).ProperError := nofun
@[simp] theorem Result.properError_fault {α : Type} (f : Fault) : (Result.fault f : Result α).ProperError := nofun
@[simp] theorem Result.properError_err {α : Type} (e : ErrCode) :
    (Result.err e : Result α).ProperError ↔ e ≠ .ok := by simp [Result.ProperError]

theorem Result.ProperError.bind {α β : Type} {r : Result α} {k : α → Result β} (hr : r.ProperError)
    (hk : ∀ a, (k a).ProperError) : (r.bind k).ProperError := by
  cases r with
  | ok a => exact hk a
  | err e => simpa using hr
  | fault f => exact properError_fault f

theorem Result.properError_ofOption {α : Type} {e : ErrCode} (he : e ≠ .ok) (o : Option α) :
    (Result.ofOption e o).ProperError := by cases o <;> simp [he]

theorem State.store_properError (s : State) (a : Nat) (bs : List Byte) : (s.store a bs).ProperError :=
  s.store_not_err a bs .ok

theorem State.load_properError (s : State) (a n : Nat) : (s.load a n).ProperError := by
  rcases s.load_cases a n with ⟨_, h⟩ | ⟨_, h⟩ <;> simp [h]

theorem State.store_withReports (s : State) (r : Reports) (a : Nat) (bs : List Byte) :
    (s.withReports r).store a bs = (s.store a bs).map (·.withReports r) := by
  unfold State.store
  split <;> rfl

/-! ## The units -/

theorem bwPut_withReports (w v : Nat) (s : State) (r : Reports) :
    bwPut w v (s.withReports r) = (bwPut w v s).map (·.withReports r) := by
  simp only [bwPut, State.withReports_bw, State.store_withReports]
  split_ifs
  · rfl
  · rfl
  · exact Result.bind_of_map _ fun _ => rfl

theorem bwPut_properError (w v : Nat) (s : State) : (bwPut w v s).ProperError := by
  rcases bwPut_cases w v s with ⟨_, h⟩ | ⟨_, _, h⟩ | ⟨_, _, h⟩ <;> rw [h]
  · simp
  · simp
  · exact (s.store_properError _ _).bind fun _ => Result.properError_ok _

theorem bwPut64_withReports (w v : Nat) (s : State) (r : Reports) :
    bwPut64 w v (s.withReports r) = (bwPut64 w v s).map (·.withReports r) := by
  simp only [bwPut64, State.withReports_bw, bwPut_withReports]
  split_ifs
  · rfl
  · rfl
  · exact Result.bind_of_map _ fun s' => bwPut_withReports _ _ s' r

theorem bwPut64_properError (w v : Nat) (s : State) : (bwPut64 w v s).ProperError := by
  unfold bwPut64
  split_ifs
  · simp
  · exact bwPut_properError _ _ _
  · exact (bwPut_properError _ _ _).bind fun _ => bwPut_properError _ _ _

theorem bwFlush_withReports (s : State) (r : Reports) :
    bwFlush (s.withReports r) = (bwFlush s).map (·.withReports r) := by
  simp only [bwFlush, State.withReports_bw, State.store_withReports]
  exact Result.bind_of_map _ fun _ => rfl

theorem bwFlush_properError (s : State) : (bwFlush s).ProperError :=
  (s.store_properError _ _).bind fun _ => Result.properError_ok _

theorem pcrRequest_properError (needPcr : Bool) (time : Word64) : (pcrRequest needPcr time).ProperError := by
  unfold pcrRequest
  split_ifs
  · exact (Result.properError_ofOption (by decide) _).bind fun _ => Result.properError_ok _
  · simp

theorem pesTicks_properError (bias pts dts : Word64) : (pesTicks bias pts dts).ProperError :=
  (Result.properError_ofOption (by decide) _).bind fun _ =>
    (Result.properError_ofOption (by decide) _).bind fun _ => Result.properError_ok _

theorem State.emitPackets_withReports (s : State) (r : Reports) (t : TrackId) (ps : List (List Byte)) :
    (s.withReports r).emitPackets t ps = (s.emitPackets t ps).map (·.withReports r) := by
  simp only [State.emitPackets, State.store_withReports, State.withReports_track]
  exact Result.bind_of_map _ fun _ => congrArg Result.ok (by cases t <;> rfl)

theorem State.emitPackets_properError (s : State) (t : TrackId) (ps : List (List Byte)) :
    (s.emitPackets t ps).ProperError :=
  (s.store_properError _ _).bind fun _ => Result.properError_ok _

theorem packetize_withReports (t : TrackId) (src size : Nat) (pts dts : Word64) (sid pid : Nat) (isPcr : Bool)
    (s : State) (r : Reports) :
    packetize t src size pts dts sid pid isPcr (s.withReports r) =
      (packetize t src size pts dts sid pid isPcr s).map (Prod.map (·.withReports r) id) := by
  refine Result.bind_congr_map _ fun ticks => Result.bind_congr_map _ fun pcr =>
    Result.bind_congr_map _ fun frame => ?_
  simp only [State.withReports_outWr, State.withReports_outCap, State.withReports_track,
    State.emitPackets_withReports]
  split_ifs
  · rfl
  · exact Result.bind_of_map _ fun _ => rfl

theorem packetize_properError (t : TrackId) (src size : Nat) (pts dts : Word64) (sid pid : Nat) (isPcr : Bool)
    (s : State) : (packetize t src size pts dts sid pid isPcr s).ProperError := by
  refine (pesTicks_properError _ _ _).bind fun ticks => (pcrRequest_properError _ _).bind fun pcr =>
    (s.load_properError _ _).bind fun frame => ?_
  dsimp only
  split_ifs
  · simp
  · exact (s.emitPackets_properError _ _).bind fun _ => Result.properError_ok _

theorem mux_withReports (t : TrackId) (s : State) (r : Reports) :
    mux t (s.withReports r) = (mux t s).map (·.withReports r) := by
  simp only [mux, State.withReports_track, State.withReports_nextFrame, State.withReports_batchSize,
    State.withReports_batchBytes, State.withReports_extent, State.withReports_effPts, State.withReports_effDts,
    State.withReports_pidOf, packetize_withReports]
  exact Result.bind_of_map _ fun _ => congrArg Result.ok (by cases t <;> rfl)

theorem mux_properError (t : TrackId) (s : State) : (mux t s).ProperError :=
  (packetize_properError _ _ _ _ _ _ _ _ s).bind fun _ => Result.properError_ok _

theorem appendFrame_withReports (t : TrackId) (src size pts dts : Word64) (key : Bool) (s : State)
    (r : Reports) :
    appendFrame t src size pts dts key (s.withReports r) =
      (appendFrame t src size pts dts key s).map (·.withReports r) := by
  simp only [appendFrame, State.withReports_track, State.withReports_load]
  split_ifs
  · rfl
  · rfl
  · rfl
  · refine Result.bind_congr_map _ fun frame => ?_
    rw [State.store_withReports]
    exact Result.bind_of_map _ fun s' => congrArg Result.ok (s'.withReports_setTrack r t _)

theorem appendFrame_properError (t : TrackId) (src size pts dts : Word64) (key : Bool) (s : State) :
    (appendFrame t src size pts dts key s).ProperError := by
  unfold appendFrame
  dsimp only
  split_ifs
  · simp
  · simp
  · simp
  · exact (s.load_properError _ _).bind fun _ =>
      (s.store_properError _ _).bind fun _ => Result.properError_ok _

/-! ## The remux pass -/

/-- The state a pass ends in under `f`. -/
def Pass.map (f : State → State) : Pass → Pass
  | .done s => .done (f s)
  | .failed e s => .failed e (f s)
  | .fault g => .fault g

@[simp] theorem Pass.map_done (f : State → State) (s : State) : (Pass.done s).map f = .done (f s) := rfl
@[simp] theorem Pass.map_failed (f : State → State) (e : ErrCode) (s : State) :
    (Pass.failed e s).map f = .failed e (f s) := rfl
@[simp] theorem Pass.map_fault (f : State → State) (g : Fault) : (Pass.fault g).map f = .fault g := rfl

theorem Pass.andThen_of_map (p : Pass) {f : State → State} {k : State → Pass} (h : ∀ s, k (f s) = (k s).map f) :
    (p.map f).andThen k = (p.andThen k).map f := by
  cases p <;> simp [h]

/-- A phase that does its work `u` and goes on with `k` carries `f` along when both do. -/
theorem Pass.phase_of_map {f : State → State} {s : State} {u : State → Result State} {k : State → Pass}
    (hu : u (f s) = (u s).map f) (hk : ∀ a, k (f a) = (k a).map f) :
    (Pass.ofResult (f s) (u (f s))).andThen k = ((Pass.ofResult s (u s)).andThen k).map f := by
  rw [hu]
  cases u s <;> simp [hk]

/-- No pass fails with the code that stands for success. -/
def Pass.ProperError (p : Pass) : Prop := ∀ s, p ≠ .failed .ok s

theorem Pass.properError_done (s : State) : (Pass.done s).ProperError := by simp [Pass.ProperError]
theorem Pass.properError_fault (f : Fault) : (Pass.fault f).ProperError := by simp [Pass.ProperError]

theorem Result.ProperError.ofResult {r : Result State} (hr : r.ProperError) (s : State) :
    (Pass.ofResult s r).ProperError := by
  cases r with
  | ok a => exact Pass.properError_done a
  | err e => simpa [Pass.ProperError] using hr
  | fault f => exact Pass.properError_fault f

theorem Pass.ProperError.andThen {p : Pass} {k : State → Pass} (hp : p.ProperError)
    (hk : ∀ s, (k s).ProperError) : (p.andThen k).ProperError := by
  cases p with
  | done s => exact hk s
  | failed e s => exact hp
  | fault f => exact hp

theorem remuxTables_withReports (s : State) (r : Reports) :
    remuxTables (s.withReports r) = (remuxTables s).map (·.withReports r) := by
  simp only [remuxTables, State.withReports_outCap, State.withReports_outBase, State.withReports_psiCc,
    patPacket_withReports, pmtPacket_withReports, State.store_withReports]
  split_ifs
  · rfl
  · refine Result.bind_of_map _ fun s1 => ?_
    rw [State.store_withReports]
    exact Result.bind_of_map _ fun _ => rfl

theorem remuxTables_properError (s : State) : (remuxTables s).ProperError := by
  unfold remuxTables
  split_ifs
  · simp
  · exact (s.store_properError _ _).bind fun s1 =>
      (s1.store_properError _ _).bind fun _ => Result.properError_ok _

theorem remuxLead_withReports (s : State) (r : Reports) :
    remuxLead (s.withReports r) = (remuxLead s).map (·.withReports r) := by
  simp only [remuxLead, State.withReports_avail, mux_withReports]
  split_ifs <;> rfl

theorem remuxLead_properError (s : State) : (remuxLead s).ProperError := by
  unfold remuxLead
  split_ifs
  · exact mux_properError _ _
  · simp

theorem selectLoop_withReports (fuel : Nat) (s : State) (r : Reports) :
    selectLoop fuel (s.withReports r) = (selectLoop fuel s).map (·.withReports r) := by
  induction fuel generalizing s with
  | zero =>
    simp only [selectLoop, State.withReports_select]
    cases s.select <;> rfl
  | succ n ih =>
    simp only [selectLoop, State.withReports_select]
    cases s.select with
    | none => rfl
    | some t => exact Pass.phase_of_map (mux_withReports t s r) ih

theorem selectLoop_properError (fuel : Nat) (s : State) : (selectLoop fuel s).ProperError := by
  induction fuel generalizing s with
  | zero =>
    unfold selectLoop
    cases s.select
    · exact Pass.properError_done s
    · exact Pass.properError_fault _
  | succ n ih =>
    unfold selectLoop
    cases s.select with
    | none => exact Pass.properError_done s
    | some t => exact ((mux_properError t s).ofResult s).andThen ih

theorem remuxPass_withReports (s : State) (r : Reports) :
    remuxPass (s.withReports r) = (remuxPass s).map (·.withReports r) :=
  Pass.phase_of_map (f := (·.withReports r)) (s := s.releaseOutput.inPhase .tables)
    (remuxTables_withReports _ r) fun s1 =>
  Pass.phase_of_map (f := (·.withReports r)) (s := s1.inPhase .lead) (remuxLead_withReports _ r) fun s2 =>
    (congrArg (Pass.andThen · _) (selectLoop_withReports _ (s2.inPhase .select) r)).trans
      (Pass.andThen_of_map _ fun _ => rfl)

theorem remuxPass_properError (s : State) : (remuxPass s).ProperError :=
  ((remuxTables_properError _).ofResult _).andThen fun _ =>
    ((remuxLead_properError _).ofResult _).andThen fun _ =>
      (selectLoop_properError _ _).andThen fun s3 => Pass.properError_done (s3.inPhase .done)

/-! ## The commands -/

/-- A state that a command left with the older bits of `ERRLOG` taken from `log`. -/
def State.carryLog (log : Word32) (t : State) : State :=
  { t with errlog := if t.err = .ok then log else logError log t.err }

/-- An outcome with the older bits of `ERRLOG` taken from `log`. -/
def carryLog (log : Word32) : Out State → Out State
  | .next t => .next (t.carryLog log)
  | .fault f => .fault f
  | .refused x => .refused x

theorem raise_withReports {e : ErrCode} (he : e ≠ .ok) (s : State) (r : Reports) :
    raise e (s.withReports r) = carryLog r.errlog (raise e s) := by
  simp [raise, carryLog, State.carryLog, State.raiseError, State.withReports, he]

theorem remuxFailed_withReports {e : ErrCode} (he : e ≠ .ok) (s : State) (r : Reports) :
    remuxFailed e (s.withReports r) = carryLog r.errlog (remuxFailed e s) :=
  raise_withReports he { s.releaseOutput.inPhase .idle with session := .failed, bwValid := false } r

/-- A gate whose condition the reports do not enter. -/
theorem gate_carryLog {log : Word32} {c c' : Prop} [Decidable c] [Decidable c'] {a a' b b' : Out State}
    (hc : c' ↔ c) (ha : a' = carryLog log a) (hb : b' = carryLog log b) :
    (if c' then a' else b') = carryLog log (if c then a else b) := by
  by_cases h : c
  · rw [if_pos h, if_pos (hc.mpr h), ha]
  · rw [if_neg h, if_neg (mt hc.mp h), hb]

theorem conclude_of_map {α β : Type} {s : State} {r : Reports} {x : Result α} {x' : Result β} (f : α → β)
    {k : α → Out State} {k' : β → Out State} (hmap : x' = x.map f) (hx : x.ProperError)
    (hk : ∀ a, k' (f a) = carryLog r.errlog (k a)) :
    conclude (s.withReports r) x' k' = carryLog r.errlog (conclude s x k) := by
  subst hmap
  cases x with
  | ok a => exact hk a
  | err e => exact raise_withReports (by simpa using hx) s r
  | fault g => rfl

theorem conclude_congr_carryLog {α : Type} {s : State} {r : Reports} {x : Result α} {k k' : α → Out State}
    (hx : x.ProperError) (hk : ∀ a, k' a = carryLog r.errlog (k a)) :
    conclude (s.withReports r) x k' = carryLog r.errlog (conclude s x k) :=
  conclude_of_map id (by cases x <;> rfl) hx hk

section Commands
variable (s : State) (r : Reports)

theorem execBwInit_withReports (base bound : Word64) :
    execBwInit base bound (s.withReports r) = carryLog r.errlog (execBwInit base bound s) :=
  gate_carryLog .rfl rfl (gate_carryLog .rfl rfl rfl)

theorem execPutBits_withReports (width : BitVec 8) (value : Word64) :
    execPutBits width value (s.withReports r) = carryLog r.errlog (execPutBits width value s) :=
  gate_carryLog .rfl rfl <| gate_carryLog .rfl rfl <|
    conclude_of_map (·.withReports r) (bwPut_withReports _ _ s r) (bwPut_properError _ _ s) fun _ =>
      gate_carryLog .rfl rfl rfl

theorem execPutBits64_withReports (width : BitVec 8) (value : Word64) :
    execPutBits64 width value (s.withReports r) = carryLog r.errlog (execPutBits64 width value s) :=
  gate_carryLog .rfl rfl <| gate_carryLog .rfl rfl <|
    conclude_of_map (·.withReports r) (bwPut64_withReports _ _ s r) (bwPut64_properError _ _ s) fun _ =>
      gate_carryLog .rfl rfl rfl

theorem execBwFlush_withReports :
    execBwFlush (s.withReports r) = carryLog r.errlog (execBwFlush s) :=
  gate_carryLog .rfl rfl <|
    conclude_of_map (·.withReports r) (bwFlush_withReports s r) (bwFlush_properError s) fun _ =>
      gate_carryLog .rfl rfl rfl

theorem execBwCount_withReports :
    execBwCount (s.withReports r) = carryLog r.errlog (execBwCount s) :=
  gate_carryLog .rfl rfl rfl

theorem execWrreg_withReports (reg : Reg) (value : Word64) :
    execWrreg reg value (s.withReports r) = carryLog r.errlog (execWrreg reg value s) :=
  gate_carryLog .rfl rfl <| gate_carryLog .rfl rfl <| gate_carryLog .rfl rfl <|
    congrArg (succeed 0#64 0#64) (s.withReports_writeReg r value reg)

theorem execCrc32_withReports (seed addr len : Word64) :
    execCrc32 seed addr len (s.withReports r) = carryLog r.errlog (execCrc32 seed addr len s) :=
  gate_carryLog .rfl rfl (conclude_congr_carryLog (s.load_properError _ _) fun _ => rfl)

theorem execTsHdr_withReports (pusi needPcr disc : Bool) (dst cc pid pcrTime payloadSize : Word64) :
    execTsHdr pusi needPcr disc dst cc pid pcrTime payloadSize (s.withReports r) =
      carryLog r.errlog (execTsHdr pusi needPcr disc dst cc pid pcrTime payloadSize s) :=
  gate_carryLog .rfl rfl <| conclude_congr_carryLog (pcrRequest_properError _ _) fun _ =>
    gate_carryLog .rfl rfl <|
      conclude_of_map (·.withReports r) (s.store_withReports r _ _) (s.store_properError _ _) fun _ => rfl

theorem execPesHdr_withReports (streamId : BitVec 8) (dst bound payloadSize pts dts : Word64) :
    execPesHdr streamId dst bound payloadSize pts dts (s.withReports r) =
      carryLog r.errlog (execPesHdr streamId dst bound payloadSize pts dts s) :=
  gate_carryLog .rfl rfl <| conclude_congr_carryLog (pesTicks_properError _ _ _) fun _ =>
    gate_carryLog .rfl rfl <| gate_carryLog .rfl rfl <|
      conclude_of_map (·.withReports r) (s.store_withReports r _ _) (s.store_properError _ _) fun _ => rfl

theorem execPack_withReports (pcr track : Bool) (src size pts dts streamId pid : Word64) :
    execPack pcr track src size pts dts streamId pid (s.withReports r) =
      carryLog r.errlog (execPack pcr track src size pts dts streamId pid s) :=
  gate_carryLog .rfl rfl <| gate_carryLog .rfl rfl <|
    conclude_of_map (Prod.map (·.withReports r) id) (packetize_withReports _ _ _ _ _ _ _ _ s r)
      (packetize_properError _ _ _ _ _ _ _ _ s) fun _ => gate_carryLog .rfl rfl rfl

theorem writeTable_withReports (dst : Word64) (packet : List Byte) :
    writeTable dst packet (s.withReports r) = carryLog r.errlog (writeTable dst packet s) :=
  gate_carryLog .rfl rfl <| gate_carryLog .rfl rfl <|
    conclude_of_map (·.withReports r) (s.store_withReports r _ _) (s.store_properError _ _) fun _ => rfl

theorem execRemux_withReports :
    execRemux (s.withReports r) = carryLog r.errlog (execRemux s) := by
  refine gate_carryLog .rfl rfl ?_
  have hproper := remuxPass_properError s
  rw [remuxPass_withReports]
  cases hp : remuxPass s with
  | done u => rfl
  | failed e u => exact remuxFailed_withReports (fun he => hproper u (he ▸ hp)) u r
  | fault f => rfl

theorem execInit_withReports (frameRate sampleRate channelCount : Word64) :
    execInit frameRate sampleRate channelCount (s.withReports r) =
      carryLog r.errlog (execInit frameRate sampleRate channelCount s) :=
  gate_carryLog .rfl rfl <| gate_carryLog .rfl rfl <| gate_carryLog .rfl rfl <|
    gate_carryLog .rfl rfl rfl

theorem appendCommand_withReports (t : TrackId) (src size pts dts : Word64) (key : Bool)
    {finish : State → State} (hf : ∀ u, finish (u.withReports r) = (finish u).withReports r) :
    appendCommand t src size pts dts key finish (s.withReports r) =
      carryLog r.errlog (appendCommand t src size pts dts key finish s) := by
  refine conclude_of_map (·.withReports r) (appendFrame_withReports _ _ _ _ _ _ s r)
    (appendFrame_properError _ _ _ _ _ _ s) fun u => gate_carryLog ?_ rfl ?_
  · rw [appendOverlap_withReports]
  · rw [hf, State.withReports_track, State.withReports_track]
    rfl

theorem execAppend_withReports (track key : Bool) (src size pts dts : Word64) :
    execAppend track key src size pts dts (s.withReports r) =
      carryLog r.errlog (execAppend track key src size pts dts s) :=
  gate_carryLog .rfl rfl <| gate_carryLog .rfl rfl <|
    appendCommand_withReports s r _ _ _ _ _ _ fun _ => rfl

theorem State.withReports_advanceTime (t : TrackId) :
    (s.withReports r).advanceTime t = (s.advanceTime t).withReports r := by
  simp [State.advanceTime, State.withReports_setTrack]

theorem acceptFrame_withReports (t : TrackId) (key : Bool) (src size encStatus : Word64) :
    acceptFrame t key src size encStatus (s.withReports r) =
      carryLog r.errlog (acceptFrame t key src size encStatus s) := by
  refine gate_carryLog .rfl rfl <| gate_carryLog .rfl rfl <| gate_carryLog .rfl rfl ?_
  rw [State.withReports_track]
  exact appendCommand_withReports s r _ _ _ _ _ _ fun u => u.withReports_advanceTime r t

theorem execReset_withReports :
    execReset (s.withReports r) = carryLog r.errlog (execReset s) :=
  gate_carryLog .rfl rfl rfl

end Commands

/-- Every command but `RDREG` and `TEARDOWN` ends as it would after other reports, but for the older bits of
`ERRLOG` (10_state.md R22, R23, R26). -/
theorem exec_withReports {i : Instr} (hread : ∀ reg, i ≠ .rdreg reg) (hclose : i ≠ .teardown) (s : State)
    (r : Reports) : exec i (s.withReports r) = carryLog r.errlog (exec i s) := by
  cases i with
  | bwInit base bound => exact execBwInit_withReports s r base bound
  | putBits width value => exact execPutBits_withReports s r width value
  | putBits64 width value => exact execPutBits64_withReports s r width value
  | bwFlush => exact execBwFlush_withReports s r
  | bwCount => exact execBwCount_withReports s r
  | wrreg reg value => exact execWrreg_withReports s r reg value
  | rdreg reg => exact absurd rfl (hread reg)
  | crc32 seed addr len => exact execCrc32_withReports s r seed addr len
  | tsHdr pusi needPcr disc dst cc pid pcrTime payloadSize =>
    exact execTsHdr_withReports s r pusi needPcr disc dst cc pid pcrTime payloadSize
  | pesHdr streamId dst bound payloadSize pts dts =>
    exact execPesHdr_withReports s r streamId dst bound payloadSize pts dts
  | pack pcr track src size pts dts streamId pid =>
    exact execPack_withReports s r pcr track src size pts dts streamId pid
  | pat dst counter => exact writeTable_withReports s r dst (patPacket s (lowBits 4 counter))
  | pmt dst counter => exact writeTable_withReports s r dst (pmtPacket s (lowBits 4 counter))
  | remux => exact execRemux_withReports s r
  | init frameRate sampleRate channelCount =>
    exact execInit_withReports s r frameRate sampleRate channelCount
  | append track key src size pts dts => exact execAppend_withReports s r track key src size pts dts
  | acceptV key src size encStatus => exact acceptFrame_withReports s r .video key src size encStatus
  | acceptA src size encStatus => exact acceptFrame_withReports s r .audio true src size encStatus
  | reset => exact execReset_withReports s r
  | teardown => exact absurd rfl hclose

/-- `TEARDOWN` ends in the same state after any reports, with an empty `ERRLOG` (47_session.md R240). -/
theorem exec_teardown_withReports (s : State) (r : Reports) :
    exec .teardown (s.withReports r) = exec .teardown s := rfl

/-- Settles O53: `exec_withReports` for all commands but `TEARDOWN`, which clears `ERRLOG`. -/
theorem earlierReportsAreNoInput : Obligations.EarlierReportsAreNoInput := by
  intro i s t e log r0 r1 hread h
  by_cases hclose : i = .teardown
  · subst hclose
    have hend := exec_teardown_withReports s ⟨e, log, r0, r1⟩
    rw [h] at hend
    obtain rfl := succeed_next h
    exact hend
  · have hend := exec_withReports hread hclose s ⟨e, log, r0, r1⟩
    rw [h] at hend
    rw [if_neg hclose]
    exact hend

end Sys2Proof.Machine
end

section

/-! What each command can end in, once for each command: an error, or one form of next state. Proofs about every
command cite these and do not unfold the commands. -/

namespace Sys2Proof.Machine

/-! ## Gates -/

/-- `t` is what an error leaves of `s` (60_exceptions.md R262). -/
def Raised (s t : State) : Prop := ∃ e, t = s.raiseError e

theorem gate_next {c : Prop} [Decidable c] {e : ErrCode} {s t : State} {o : Out State}
    (h : (if c then raise e s else o) = .next t) : Raised s t ∨ (¬ c ∧ o = .next t) := by
  split at h
  · exact .inl ⟨e, raise_next h⟩
  · exact .inr ⟨‹_›, h⟩

theorem refusal_next {c : Prop} [Decidable c] {x : Refusal} {t : State} {o : Out State}
    (h : (if c then .refused x else o) = .next t) : ¬ c ∧ o = .next t := by
  split at h
  · cases h
  · exact ⟨‹_›, h⟩

theorem conclude_raised_or_next {α : Type} {s t : State} {x : Result α} {k : α → Out State}
    (h : conclude s x k = .next t) : Raised s t ∨ ∃ a, x = .ok a ∧ k a = .next t := by
  rcases conclude_next h with hok | ⟨e, _, ht⟩
  · exact .inr hok
  · exact .inl ⟨e, ht⟩

section Next
variable {s t : State}

/-! ## The bit writer -/

theorem execBwInit_next {base bound : Word64} (h : execBwInit base bound s = .next t) :
    Raised s t ∨ regionOk base bound = true ∧
      t = State.complete { s with bw := .started (low32 base) (low32 bound), bwValid := true } 0#64 0#64 := by
  rcases gate_next h with he | ⟨hreg, h⟩
  · exact .inl he
  · obtain ⟨_, h⟩ := refusal_next h
    exact .inr ⟨by simpa using hreg, succeed_next h⟩

theorem execPutBits_next {width : BitVec 8} {value : Word64} (h : execPutBits width value s = .next t) :
    Raised s t ∨ s.bwValid = true ∧ width.toNat ≤ 32 ∧
      ∃ u, bwPut width.toNat value.toNat s = .ok u ∧ t = u.complete 0#64 0#64 := by
  rcases gate_next h with he | ⟨hvalid, h⟩
  · exact .inl he
  rcases gate_next h with he | ⟨hwidth, h⟩
  · exact .inl he
  rcases conclude_raised_or_next h with he | ⟨u, hu, h⟩
  · exact .inl he
  · exact .inr ⟨by simpa using hvalid, not_lt.mp hwidth, u, hu, succeed_next (refusal_next h).2⟩

theorem execPutBits64_next {width : BitVec 8} {value : Word64} (h : execPutBits64 width value s = .next t) :
    Raised s t ∨ s.bwValid = true ∧ width.toNat ≤ 64 ∧
      ∃ u, bwPut64 width.toNat value.toNat s = .ok u ∧ t = u.complete 0#64 0#64 := by
  rcases gate_next h with he | ⟨hvalid, h⟩
  · exact .inl he
  rcases gate_next h with he | ⟨hwidth, h⟩
  · exact .inl he
  rcases conclude_raised_or_next h with he | ⟨u, hu, h⟩
  · exact .inl he
  · exact .inr ⟨by simpa using hvalid, not_lt.mp hwidth, u, hu, succeed_next (refusal_next h).2⟩

theorem execBwFlush_next (h : execBwFlush s = .next t) :
    Raised s t ∨ s.bwValid = true ∧
      ∃ u, bwFlush s = .ok u ∧ t = u.complete u.bw.bytesWritten u.bw.bitcnt := by
  rcases gate_next h with he | ⟨hvalid, h⟩
  · exact .inl he
  rcases conclude_raised_or_next h with he | ⟨u, hu, h⟩
  · exact .inl he
  · exact .inr ⟨by simpa using hvalid, u, hu, succeed_next (refusal_next h).2⟩

theorem execBwCount_next (h : execBwCount s = .next t) :
    Raised s t ∨ t = s.complete s.bw.bytesWritten s.bw.bitcnt := by
  rcases gate_next h with he | ⟨_, h⟩
  · exact .inl he
  · exact .inr (succeed_next h)

/-! ## Registers and CRC -/

theorem execWrreg_next {reg : Reg} {value : Word64} (h : execWrreg reg value s = .next t) :
    Raised s t ∨ (reg.access = .rwOff → s.session = .off) ∧ regLegal value reg = true ∧
      t = (s.writeReg value reg).complete 0#64 0#64 := by
  rcases gate_next h with he | ⟨_, h⟩
  · exact .inl he
  rcases gate_next h with he | ⟨hoff, h⟩
  · exact .inl he
  rcases gate_next h with he | ⟨hlegal, h⟩
  · exact .inl he
  · exact .inr ⟨by simpa using hoff, by simpa using hlegal, succeed_next h⟩

theorem execCrc32_next {seed addr len : Word64} (h : execCrc32 seed addr len s = .next t) :
    Raised s t ∨ ∃ r0, t = s.complete r0 0#64 := by
  rcases gate_next h with he | ⟨_, h⟩
  · exact .inl he
  rcases conclude_raised_or_next h with he | ⟨_, _, h⟩
  · exact .inl he
  · exact .inr ⟨_, succeed_next h⟩

/-! ## The stand-alone builders -/

/-- `t` is what a builder that stores a byte string in `M` leaves of `s` (42_ts_header.md R138, 43_pes_header.md
R158, 45_psi_tables.md R189, R194). -/
def Built (s t : State) : Prop :=
  ∃ a bs r0 r1, a + bs.length ≤ Config.memSize ∧
    t = State.complete { s with mem := s.mem.writeBytes a bs, bwValid := false } r0 r1

theorem conclude_store_next {a : Nat} {bs : List Byte} {r0 r1 : Word64}
    (h : conclude s (s.store a bs) (fun s' => succeed r0 r1 { s' with bwValid := false }) = .next t) :
    Raised s t ∨ Built s t := by
  rcases conclude_raised_or_next h with he | ⟨u, hu, h⟩
  · exact .inl he
  · obtain ⟨hm, rfl⟩ := State.store_ok hu
    exact .inr ⟨a, bs, r0, r1, hm, succeed_next h⟩

theorem execTsHdr_next {pusi needPcr disc : Bool} {dst cc pid pcrTime payloadSize : Word64}
    (h : execTsHdr pusi needPcr disc dst cc pid pcrTime payloadSize s = .next t) : Raised s t ∨ Built s t := by
  rcases gate_next h with he | ⟨_, h⟩
  · exact .inl he
  rcases conclude_raised_or_next h with he | ⟨_, _, h⟩
  · exact .inl he
  · exact conclude_store_next (refusal_next h).2

theorem execPesHdr_next {streamId : BitVec 8} {dst bound payloadSize pts dts : Word64}
    (h : execPesHdr streamId dst bound payloadSize pts dts s = .next t) : Raised s t ∨ Built s t := by
  rcases gate_next h with he | ⟨_, h⟩
  · exact .inl he
  rcases conclude_raised_or_next h with he | ⟨_, _, h⟩
  · exact .inl he
  rcases gate_next h with he | ⟨_, h⟩
  · exact .inl he
  · exact conclude_store_next (refusal_next h).2

theorem writeTable_next {dst : Word64} {packet : List Byte} (h : writeTable dst packet s = .next t) :
    Raised s t ∨ Built s t := by
  rcases gate_next h with he | ⟨_, h⟩
  · exact .inl he
  · exact conclude_store_next (refusal_next h).2

/-! ## The packetizer and the remux pass -/

theorem execPack_next {pcr track : Bool} {src size pts dts streamId pid : Word64}
    (h : execPack pcr track src size pts dts streamId pid s = .next t) :
    Raised s t ∨ s.session = .ready ∧ ∃ u n r1,
      packetize (.ofBit track) src.toNat size.toNat pts dts (lowBits 8 streamId) (lowBits 13 pid) pcr s =
        .ok (u, n) ∧
      t = State.complete { u with outValid := false, bwValid := false } (BitVec.ofNat 64 n) r1 := by
  rcases gate_next h with he | ⟨hready, h⟩
  · exact .inl he
  rcases gate_next h with he | ⟨_, h⟩
  · exact .inl he
  rcases conclude_raised_or_next h with he | ⟨⟨u, n⟩, hu, h⟩
  · exact .inl he
  · exact .inr ⟨not_not.mp hready, u, n, _, hu, succeed_next (refusal_next h).2⟩

theorem execRemux_next (h : execRemux s = .next t) :
    Raised s t ∨ s.remuxGate = true ∧
      ((∃ u, remuxPass s = .done u ∧
          t = State.complete { u.inPhase .idle with outValid := true, bwValid := false }
            (u.outWr.setWidth 64) (u.outPkts.setWidth 64)) ∨
        ∃ e u, remuxPass s = .failed e u ∧
          t = State.raiseError { u.releaseOutput.inPhase .idle with session := .failed, bwValid := false } e) := by
  rcases gate_next h with he | ⟨hgate, h⟩
  · exact .inl he
  · refine .inr ⟨by simpa using hgate, ?_⟩
    cases hp : remuxPass s with
    | done u => rw [hp] at h; exact .inl ⟨u, rfl, succeed_next h⟩
    | failed e u => rw [hp] at h; exact .inr ⟨e, u, rfl, raise_next h⟩
    | fault f => rw [hp] at h; cases h

/-! ## The session -/

theorem execInit_next {frameRate sampleRate channelCount : Word64}
    (h : execInit frameRate sampleRate channelCount s = .next t) :
    Raised s t ∨ regionsUsable s.sessionRegions = true ∧ ∃ vinc ainc,
      t = State.complete
        { s with
          video := s.video.opened (low32 frameRate) 0#32 vinc
          audio := s.audio.opened (low32 sampleRate) (low32 channelCount) ainc
          psiCc := 0#4, outWr := 0#32, outPkts := 0#32, outValid := false, session := .ready } 0#64 0#64 := by
  rcases gate_next h with he | ⟨_, h⟩
  · exact .inl he
  rcases gate_next h with he | ⟨_, h⟩
  · exact .inl he
  rcases gate_next h with he | ⟨_, h⟩
  · exact .inl he
  rcases gate_next h with he | ⟨husable, h⟩
  · exact .inl he
  · exact .inr ⟨by simpa using husable, _, _, succeed_next h⟩

/-- `t` is what a command that appends a frame to track `t0` leaves of `s`, `finish` being what it does to the state
after the append (47_session.md R230, R234, R235). -/
def Appended (t0 : TrackId) (finish : State → State) (s t : State) : Prop :=
  s.session = .ready ∧ ∃ src size pts dts key u r0 r1, regionOk src size = true ∧
    appendFrame t0 src size pts dts key s = .ok u ∧ t = (finish u).complete r0 r1

theorem appendCommand_next {t0 : TrackId} {src size pts dts : Word64} {key : Bool} {finish : State → State}
    (hready : s.session = .ready) (hreg : regionOk src size = true)
    (h : appendCommand t0 src size pts dts key finish s = .next t) :
    Raised s t ∨ Appended t0 finish s t := by
  rcases conclude_raised_or_next h with he | ⟨u, hu, h⟩
  · exact .inl he
  · exact .inr ⟨hready, src, size, pts, dts, key, u, _, _, hreg, hu, succeed_next (refusal_next h).2⟩

theorem execAppend_next {track key : Bool} {src size pts dts : Word64}
    (h : execAppend track key src size pts dts s = .next t) :
    Raised s t ∨ Appended (.ofBit track) id s t := by
  rcases gate_next h with he | ⟨hready, h⟩
  · exact .inl he
  rcases gate_next h with he | ⟨hreg, h⟩
  · exact .inl he
  · exact appendCommand_next (not_not.mp hready) (by simpa using hreg) h

theorem acceptFrame_next {t0 : TrackId} {key : Bool} {src size encStatus : Word64}
    (h : acceptFrame t0 key src size encStatus s = .next t) :
    Raised s t ∨ Appended t0 (fun u => u.advanceTime t0) s t := by
  rcases gate_next h with he | ⟨hready, h⟩
  · exact .inl he
  rcases gate_next h with he | ⟨hreg, h⟩
  · exact .inl he
  rcases gate_next h with he | ⟨_, h⟩
  · exact .inl he
  · exact appendCommand_next (not_not.mp hready) (by simpa using hreg) h

theorem execReset_next (h : execReset s = .next t) :
    Raised s t ∨ s.session ≠ .off ∧
      t = State.complete
        { s with video := s.video.emptied, audio := s.audio.emptied, outWr := 0#32, outPkts := 0#32,
                 outValid := false, session := .ready } 0#64 0#64 := by
  rcases gate_next h with he | ⟨hoff, h⟩
  · exact .inl he
  · exact .inr ⟨hoff, succeed_next h⟩

end Next

end Sys2Proof.Machine
end

section

/-! The invariant of the block is kept: by each update of the state, by each unit, by a whole remux pass, and so by
every command and every step (10_state.md R25, R33, R34, R37, R39; 46_selector.md R215). -/

namespace Sys2Proof.Machine

/-! ## The bit writer (10_state.md R34) -/

/-- A bit-writer unit changes `M` and the writer alone, and keeps their invariants. -/
def WriterStep (s u : State) : Prop :=
  ∃ m b, u = { s with mem := m, bw := b } ∧ (s.mem.wf = true → m.wf = true) ∧ (s.bw.Ok → b.Ok)

theorem WriterStep.trans {s u v : State} (hu : WriterStep s u) (hv : WriterStep u v) : WriterStep s v := by
  obtain ⟨m, b, rfl, hm, hb⟩ := hu
  obtain ⟨m', b', rfl, hm', hb'⟩ := hv
  exact ⟨m', b', rfl, hm' ∘ hm, hb' ∘ hb⟩

/-- The accumulator after bits that do not fill a word. -/
theorem BitWriter.Ok.accumulate {b : BitWriter} (h : b.Ok) {w : Nat} (v : Nat)
    (hbound : b.bitcnt.toNat + w ≤ 8 * b.bound.toNat) (hshort : b.accn.toNat + w < 32) :
    BitWriter.Ok { b with
      acc := BitVec.ofNat 32 (b.acc.toNat * 2 ^ w + v % 2 ^ w)
      accn := BitVec.ofNat 6 (b.accn.toNat + w)
      bitcnt := BitVec.ofNat 64 (b.bitcnt.toNat + w) } := by
  obtain ⟨hcount, hpending, _, _, hregion⟩ := h
  have hmax := b.bound.isLt
  have hacc : b.acc.toNat * 2 ^ w + v % 2 ^ w < 2 ^ (b.accn.toNat + w) := by
    have hv : v % 2 ^ w < 2 ^ w := Nat.mod_lt _ (by positivity)
    calc b.acc.toNat * 2 ^ w + v % 2 ^ w < (b.acc.toNat + 1) * 2 ^ w := by rw [Nat.add_mul]; omega
      _ ≤ 2 ^ b.accn.toNat * 2 ^ w := Nat.mul_le_mul_right _ hpending
      _ = 2 ^ (b.accn.toNat + w) := (pow_add _ _ _).symm
  have hpow : 2 ^ (b.accn.toNat + w) ≤ 2 ^ 32 := Nat.pow_le_pow_right (by decide) (by omega)
  have haccn : (BitVec.ofNat 6 (b.accn.toNat + w)).toNat = b.accn.toNat + w := by
    rw [BitVec.toNat_ofNat]; omega
  have hbit : (BitVec.ofNat 64 (b.bitcnt.toNat + w)).toNat = b.bitcnt.toNat + w := by
    rw [BitVec.toNat_ofNat]; omega
  constructor <;> dsimp only
  · omega
  · rw [haccn, BitVec.toNat_ofNat]; exact (Nat.mod_le _ _).trans_lt hacc
  · omega
  · omega
  · exact hregion

/-- The accumulator after bits of which the first fill a word that is committed. -/
theorem BitWriter.Ok.commit {b : BitWriter} (h : b.Ok) {w : Nat} (x : Nat) (hw : w ≤ 32)
    (hbound : b.bitcnt.toNat + w ≤ 8 * b.bound.toNat) (hfull : 32 ≤ b.accn.toNat + w) :
    BitWriter.Ok { b with
      ptr := BitVec.ofNat 32 (b.ptr.toNat + 4)
      acc := BitVec.ofNat 32 (x % 2 ^ (w - (32 - b.accn.toNat)))
      accn := BitVec.ofNat 6 (w - (32 - b.accn.toNat))
      bitcnt := BitVec.ofNat 64 (b.bitcnt.toNat + w) } := by
  obtain ⟨hcount, _, _, hshort, hregion⟩ := h
  have hmax := b.bound.isLt
  have hrest : w - (32 - b.accn.toNat) ≤ 31 := by omega
  have haccn : (BitVec.ofNat 6 (w - (32 - b.accn.toNat))).toNat = w - (32 - b.accn.toNat) := by
    rw [BitVec.toNat_ofNat]; omega
  have hbit : (BitVec.ofNat 64 (b.bitcnt.toNat + w)).toNat = b.bitcnt.toNat + w := by
    rw [BitVec.toNat_ofNat]; omega
  have hptr : (BitVec.ofNat 32 (b.ptr.toNat + 4)).toNat = b.ptr.toNat + 4 := by
    rw [BitVec.toNat_ofNat]; omega
  constructor <;> dsimp only
  · omega
  · rw [haccn, BitVec.toNat_ofNat]
    exact (Nat.mod_le _ _).trans_lt (Nat.mod_lt _ (by positivity))
  · omega
  · omega
  · exact hregion

/-- The writer after its pending bits are padded and committed. -/
theorem BitWriter.Ok.flush {b : BitWriter} (h : b.Ok) :
    BitWriter.Ok { b with
      ptr := BitVec.ofNat 32 (b.ptr.toNat + b.pendingBytes)
      bitcnt := BitVec.ofNat 64 (b.bitcnt.toNat + b.padBits)
      acc := 0#32, accn := 0#6 } := by
  obtain ⟨hcount, _, hbounded, _, hregion⟩ := h
  have hmax := b.bound.isLt
  have hbytes : b.ptr.toNat + b.pendingBytes ≤ b.bound.toNat := by unfold BitWriter.pendingBytes; omega
  have hpad : b.bitcnt.toNat + b.padBits = 8 * (b.ptr.toNat + b.pendingBytes) := by
    unfold BitWriter.padBits BitWriter.pendingBytes; omega
  have hptr : (BitVec.ofNat 32 (b.ptr.toNat + b.pendingBytes)).toNat = b.ptr.toNat + b.pendingBytes := by
    rw [BitVec.toNat_ofNat]; omega
  have hbit : (BitVec.ofNat 64 (b.bitcnt.toNat + b.padBits)).toNat = b.bitcnt.toNat + b.padBits := by
    rw [BitVec.toNat_ofNat]; omega
  constructor <;> dsimp only
  · rw [hbit, hptr, hpad]; rfl
  · decide
  · omega
  · decide
  · exact hregion

theorem BitWriter.started_ok {base bound : Word64} (h : regionOk base bound = true) :
    (BitWriter.started (low32 base) (low32 bound)).Ok := by
  obtain ⟨hbase, hbound, hmem⟩ := (regionOk_iff base bound).mp h
  refine ⟨rfl, Nat.one_pos, Nat.zero_le _, Nat.zero_le _, ?_⟩
  simp only [BitWriter.started, low32, BitVec.toNat_setWidth]
  omega

theorem bwPut_step {w v : Nat} {s u : State} (hw : w ≤ 32) (h : bwPut w v s = .ok u) : WriterStep s u := by
  rcases bwPut_cases w v s with ⟨_, hput⟩ | ⟨hbound, hshort, hput⟩ | ⟨hbound, hfull, hput⟩ <;> rw [hput] at h
  · cases h
  · obtain rfl := Result.ok.inj h
    exact ⟨_, _, rfl, id, fun hb => hb.accumulate v hbound hshort⟩
  · obtain ⟨u', hstore, h⟩ := Result.bind_eq_ok.mp h
    obtain ⟨hm, rfl⟩ := State.store_ok hstore
    obtain rfl := Result.ok.inj h
    exact ⟨_, _, rfl, fun hwf => Memory.wf_writeBytes hwf hm, fun hb => hb.commit _ hw hbound hfull⟩

theorem bwPut64_step {w v : Nat} {s u : State} (hw : w ≤ 64) (h : bwPut64 w v s = .ok u) : WriterStep s u := by
  unfold bwPut64 at h
  split_ifs at h with hbound hnarrow
  · exact bwPut_step hnarrow h
  · obtain ⟨u', hhigh, hlow⟩ := Result.bind_eq_ok.mp h
    exact (bwPut_step (by omega) hhigh).trans (bwPut_step le_rfl hlow)

theorem bwFlush_step {s u : State} (h : bwFlush s = .ok u) : WriterStep s u := by
  obtain ⟨u', hstore, h⟩ := Result.bind_eq_ok.mp h
  obtain ⟨hm, rfl⟩ := State.store_ok hstore
  obtain rfl := Result.ok.inj h
  exact ⟨_, _, rfl, fun hwf => Memory.wf_writeBytes hwf hm, fun hb => hb.flush⟩

/-! ## The data frames of a track (10_state.md R39) -/

theorem contiguous_le {start stop : Nat} {es : List FrameExtent} (h : contiguous start stop es = true) :
    start ≤ stop := by
  induction es generalizing start with
  | nil => exact (of_decide_eq_true h).le
  | cons e es ih =>
    rw [contiguous, Bool.and_eq_true] at h
    exact (Nat.le_add_right _ _).trans (ih h.2)

/-- One more frame at the end. -/
theorem contiguous_append {start stop : Nat} {es : List FrameExtent} {e : FrameExtent}
    (h : contiguous start stop es = true) (he : e.offset.toNat = stop) :
    contiguous start (stop + e.size.toNat) (es ++ [e]) = true := by
  induction es generalizing start with
  | nil => simp [contiguous, he, of_decide_eq_true h]
  | cons f es ih =>
    rw [contiguous, Bool.and_eq_true] at h
    rw [List.cons_append, contiguous, Bool.and_eq_true]
    exact ⟨h.1, ih h.2⟩

/-- The frames from index `k` on start at the offset of frame `k`. -/
theorem contiguous_drop {start stop k : Nat} {es : List FrameExtent} (h : contiguous start stop es = true)
    (hk : k < es.length) : contiguous es[k].offset.toNat stop (es.drop k) = true := by
  induction es generalizing start k with
  | nil => cases hk
  | cons e es ih =>
    have hcons := h
    rw [contiguous, Bool.and_eq_true, decide_eq_true_iff] at hcons
    cases k with
    | zero => simpa [hcons.1] using h
    | succ k => exact ih hcons.2 (by simpa using hk)

/-- The `nb` frames from index `k` on end within the written bytes. -/
theorem batchBytes_le {s : State} {t : TrackId} {start stop k nb : Nat}
    (h : contiguous start stop ((s.track t).extents.drop k) = true)
    (hk : k + nb ≤ (s.track t).extents.length) : start + s.batchBytes t k nb ≤ stop := by
  induction nb generalizing start k with
  | zero => exact contiguous_le h
  | succ nb ih =>
    have hlt : k < (s.track t).extents.length := by omega
    rw [List.drop_eq_getElem_cons hlt, contiguous, Bool.and_eq_true] at h
    have hext : s.extent t k = (s.track t).extents[k] := by simp [State.extent, hlt]
    rw [State.batchBytes, hext, ← add_assoc]
    exact ih h.2 (by omega)

theorem putEntry_length {α : Type} (stale : Nat → α) (l : List α) (v : α) :
    putEntry stale l l.length v = l ++ [v] := by simp [putEntry]

/-! ## Tracks -/

/-- A track without frames is good, whatever its configuration. -/
theorem TrackState.ok_of_empty {tr : TrackState} (hfirst : tr.firstFrame = 0#32) (hinfos : tr.infos = [])
    (hextents : tr.extents = []) (hframes : tr.nFrames = 0#32) (hwritten : tr.framesWritten = 0#32)
    (hwr : tr.wrCur = 0#32) (hrd : tr.rdCur = 0#32) : tr.Ok := by
  constructor <;> simp [hfirst, hinfos, hextents, hframes, hwritten, hwr, hrd, contiguous]

theorem TrackState.emptied_ok (tr : TrackState) : tr.emptied.Ok := ok_of_empty rfl rfl rfl rfl rfl rfl rfl

theorem TrackState.opened_ok (tr : TrackState) (rate channels : Word32) (inc : Word64) :
    (tr.opened rate channels inc).Ok := ok_of_empty rfl rfl rfl rfl rfl rfl rfl

theorem TrackState.closed_ok (tr : TrackState) : tr.closed.Ok := ok_of_empty rfl rfl rfl rfl rfl rfl rfl

namespace TrackState.Ok
variable {tr : TrackState} (h : tr.Ok)
include h

/-- The fields the invariant of a track does not constrain. -/
theorem withFree (codec : BitVec 8) (rep dts : Bool) (base : Word32) (cc : BitVec 4) (next : Word64) :
    TrackState.Ok { tr with codec := codec, repeatSeg := rep, hasDts := dts, tbufBase := base, cc := cc,
                            tsNext := next } :=
  ⟨h.first, h.infosHeld, h.extentsHeld, h.ceiling, h.consumed, h.noGap, h.fits, h.readBehind, h.finiteTimes⟩

theorem withCap (hwr : tr.wrCur = 0#32) (cap : Word32) : TrackState.Ok { tr with tbufCap := cap } :=
  ⟨h.first, h.infosHeld, h.extentsHeld, h.ceiling, h.consumed, h.noGap, by simp [hwr], h.readBehind,
    h.finiteTimes⟩

theorem consumed_ok {frames bytes : Nat} (hframes : frames ≤ tr.nFrames.toNat) (hbytes : bytes ≤ tr.wrCur.toNat) :
    (tr.consumed frames bytes).Ok where
  first := h.first
  infosHeld := h.infosHeld
  extentsHeld := h.extentsHeld
  ceiling := h.ceiling
  consumed := by rw [consumed_framesWritten, BitVec.toNat_ofNat]; exact (Nat.mod_le _ _).trans hframes
  noGap := h.noGap
  fits := h.fits
  readBehind := by rw [consumed_rdCur, BitVec.toNat_ofNat]; exact (Nat.mod_le _ _).trans hbytes
  finiteTimes := h.finiteTimes

/-- The new entries stand behind the ones held. -/
theorem withFrame_infos_append (t : TrackId) (size : Word32) (pts dts : Word64) (key : Bool) :
    (tr.withFrame t size pts dts key).infos = tr.infos ++ [⟨pts, dts, key || decide (t = .audio)⟩] := by
  rw [withFrame_infos, ← h.infosHeld, putEntry_length]

theorem withFrame_extents_append (t : TrackId) (size : Word32) (pts dts : Word64) (key : Bool) :
    (tr.withFrame t size pts dts key).extents = tr.extents ++ [⟨tr.wrCur, size⟩] := by
  rw [withFrame_extents, h.first, BitVec.toNat_ofNat, Nat.zero_mod, Nat.sub_zero, ← h.extentsHeld,
    putEntry_length]

theorem withFrame_ok {t : TrackId} {size : Word32} {pts dts : Word64} {key : Bool}
    (hpts : finite pts = true) (hdts : finite dts = true) (hroom : tr.nFrames.toNat < Config.maxFrames)
    (hcap : tr.wrCur.toNat + size.toNat ≤ tr.tbufCap.toNat) : (tr.withFrame t size pts dts key).Ok := by
  have hframes : (tr.nFrames + 1#32).toNat = tr.nFrames.toNat + 1 := by
    rw [BitVec.toNat_add]; simp only [Config.maxFrames] at hroom; simp; omega
  have hwr : (tr.wrCur + size).toNat = tr.wrCur.toNat + size.toNat := by
    have := tr.tbufCap.isLt
    rw [BitVec.toNat_add]; omega
  constructor
  case first => exact h.first
  case infosHeld => rw [h.withFrame_infos_append, List.length_append, h.infosHeld]; exact hframes.symm
  case extentsHeld => rw [h.withFrame_extents_append, List.length_append, h.extentsHeld]; exact hframes.symm
  case ceiling => rw [withFrame_nFrames, hframes]; exact hroom
  case consumed => rw [withFrame_framesWritten, withFrame_nFrames, hframes]; exact Nat.le_succ_of_le h.consumed
  case noGap =>
    rw [h.withFrame_extents_append, withFrame_wrCur, hwr]
    exact contiguous_append (e := ⟨tr.wrCur, size⟩) h.noGap rfl
  case fits => rw [withFrame_wrCur, withFrame_tbufCap, hwr]; exact hcap
  case readBehind => rw [withFrame_rdCur, withFrame_wrCur, hwr]; exact Nat.le_add_right_of_le h.readBehind
  case finiteTimes =>
    rw [h.withFrame_infos_append]
    intro f hf
    rcases List.mem_append.mp hf with hf | hf
    · exact h.finiteTimes f hf
    · obtain rfl := List.mem_singleton.mp hf
      exact ⟨hpts, hdts⟩

end TrackState.Ok

/-! ## Updates of the state -/

namespace State.Ok
variable {s : State} (h : s.Ok)
include h

/-- The fields the invariant does not constrain. -/
theorem withFree (outValid : Bool) (err : ErrCode) (errlog : Word32) (res0 res1 : Word64) (tsid : BitVec 16)
    (psiCc : BitVec 4) (port : List PortWord) :
    State.Ok { s with outValid := outValid, err := err, errlog := errlog, res0 := res0, res1 := res1
                      tsid := tsid, psiCc := psiCc, port := port } :=
  ⟨h.mem, h.phase, ⟨h.config.pmtPid, h.config.audioBatch, h.config.bias⟩, h.writer, h.video, h.audio, h.outSize,
    h.outFits, h.regions, h.offEmpty⟩

theorem raiseError (e : ErrCode) : (s.raiseError e).Ok := h.withFree _ _ _ _ _ _ _ _

theorem complete (r0 r1 : Word64) : (s.complete r0 r1).Ok := h.withFree _ _ _ _ _ _ _ _

theorem setPort (ws : List PortWord) : (s.setPort ws).Ok := h.withFree _ _ _ _ _ _ _ _

theorem withConfig {pid : BitVec 13} {batch : Word32} {bias : Word64} (hpid : 1 ≤ pid.toNat ∧ pid.toNat ≤ 0x1FFD)
    (hbatch : 1 ≤ batch.toNat ∧ batch.toNat ≤ 1000) (hbias : finite bias = true) :
    State.Ok { s with pmtPid := pid, audioBatch := batch, bias := bias } :=
  ⟨h.mem, h.phase, ⟨hpid, hbatch, hbias⟩, h.writer, h.video, h.audio, h.outSize, h.outFits, h.regions, h.offEmpty⟩

theorem withMem {m : Memory} (hm : m.wf = true) : State.Ok { s with mem := m } :=
  ⟨hm, h.phase, ⟨h.config.pmtPid, h.config.audioBatch, h.config.bias⟩, h.writer, h.video, h.audio, h.outSize,
    h.outFits, h.regions, h.offEmpty⟩

theorem withWriter {b : BitWriter} {valid : Bool} (hb : valid = true → b.Ok) :
    State.Ok { s with bw := b, bwValid := valid } :=
  ⟨h.mem, h.phase, ⟨h.config.pmtPid, h.config.audioBatch, h.config.bias⟩, hb, h.video, h.audio, h.outSize,
    h.outFits, h.regions, h.offEmpty⟩

theorem releaseWriter : State.Ok { s with bwValid := false } := h.withWriter nofun

/-- In a session the output position may be any whole number of packets inside the region. -/
theorem withOutput (hon : s.session ≠ .off) {wr pkts : Word32} (hsize : wr.toNat = 188 * pkts.toNat)
    (hfits : wr.toNat ≤ s.outCap.toNat) : State.Ok { s with outWr := wr, outPkts := pkts } :=
  ⟨h.mem, h.phase, ⟨h.config.pmtPid, h.config.audioBatch, h.config.bias⟩, h.writer, h.video, h.audio, hsize, hfits,
    h.regions, fun hoff => absurd hoff hon⟩

/-- Outside a session the regions are free. -/
theorem withOutRegion (hoff : s.session = .off) (base cap : Word32) :
    State.Ok { s with outBase := base, outCap := cap } :=
  ⟨h.mem, h.phase, ⟨h.config.pmtPid, h.config.audioBatch, h.config.bias⟩, h.writer, h.video, h.audio, h.outSize,
    by simp [(h.offEmpty hoff).2.2], fun hon => absurd hoff hon, h.offEmpty⟩

theorem track (t : TrackId) : (s.track t).Ok := by
  cases t
  · exact h.video
  · exact h.audio

theorem track_wrCur (hoff : s.session = .off) (t : TrackId) : (s.track t).wrCur = 0#32 := by
  obtain ⟨hvideo, haudio, _⟩ := h.offEmpty hoff
  cases t
  · exact hvideo
  · exact haudio

theorem setTrack {t : TrackId} {tr : TrackState} (htr : tr.Ok)
    (hregion : s.session ≠ .off → tr.tbufBase = (s.track t).tbufBase ∧ tr.tbufCap = (s.track t).tbufCap)
    (hempty : s.session = .off → tr.wrCur = 0#32) : (s.setTrack t tr).Ok := by
  cases t
  · refine ⟨h.mem, h.phase, ⟨h.config.pmtPid, h.config.audioBatch, h.config.bias⟩, h.writer, htr, h.audio,
      h.outSize, h.outFits, fun hon => ?_, fun hoff => ⟨hempty hoff, (h.offEmpty hoff).2⟩⟩
    obtain ⟨hbase, hcap⟩ := hregion hon
    have hregions := h.regions hon
    simpa [State.sessionRegions, hbase, hcap] using hregions
  · refine ⟨h.mem, h.phase, ⟨h.config.pmtPid, h.config.audioBatch, h.config.bias⟩, h.writer, h.video, htr,
      h.outSize, h.outFits, fun hon => ?_,
      fun hoff => ⟨(h.offEmpty hoff).1, hempty hoff, (h.offEmpty hoff).2.2⟩⟩
    obtain ⟨hbase, hcap⟩ := hregion hon
    have hregions := h.regions hon
    simpa [State.sessionRegions, hbase, hcap] using hregions

/-- The output released and the session changed. -/
theorem emptyOutput (session : Session) (hregions : session ≠ .off → regionsUsable s.sessionRegions = true)
    (hempty : session = .off → s.video.wrCur = 0#32 ∧ s.audio.wrCur = 0#32) :
    State.Ok { s with outWr := 0#32, outPkts := 0#32, session := session } :=
  ⟨h.mem, h.phase, ⟨h.config.pmtPid, h.config.audioBatch, h.config.bias⟩, h.writer, h.video, h.audio, rfl,
    Nat.zero_le _, hregions, fun hoff => ⟨(hempty hoff).1, (hempty hoff).2, rfl⟩⟩

/-- The output released, both tracks without frames, and the session changed. -/
theorem emptyTracks {session : Session} {video audio : TrackState} (hvideo : video.Ok) (haudio : audio.Ok)
    (hvwr : video.wrCur = 0#32) (hawr : audio.wrCur = 0#32)
    (hregions : session ≠ .off →
      regionsUsable (State.sessionRegions { s with video := video, audio := audio }) = true) :
    State.Ok { s with video := video, audio := audio, outWr := 0#32, outPkts := 0#32, session := session } :=
  ⟨h.mem, h.phase, ⟨h.config.pmtPid, h.config.audioBatch, h.config.bias⟩, h.writer, hvideo, haudio, rfl,
    Nat.zero_le _, hregions, fun _ => ⟨hvwr, hawr, rfl⟩⟩

end State.Ok

end Sys2Proof.Machine
end

section

/-! The invariant through the packetizer and a remux pass, and so through every command and every step
(44_packetizer.md R171, 46_selector.md R207 to R215, 70_reset_and_hazards.md R292). -/

namespace Sys2Proof.Machine

/-! ## The packetizer -/

theorem length_packets (n cc : Nat) (first : Bool) (pcr : Option Int) (pid : Nat) (data : List Byte) :
    (packets n cc first pcr pid data).length = n := by
  induction n generalizing cc first pcr data with
  | zero => rfl
  | succ n ih => rw [packets, List.length_cons, ih]

/-- What packetizing a frame of track `t` changes: `M`, the output position and the continuity counter. -/
theorem packetize_step {t : TrackId} {src size sid pid n : Nat} {pts dts : Word64} {isPcr : Bool} {s u : State}
    (h : packetize t src size pts dts sid pid isPcr s = .ok (u, n)) :
    ∃ m cc, (s.mem.wf = true → m.wf = true) ∧ s.outWr.toNat + 188 * n ≤ s.outCap.toNat ∧
      u = State.setTrack
        { s with mem := m, outWr := BitVec.ofNat 32 (s.outWr.toNat + 188 * n)
                 outPkts := BitVec.ofNat 32 (s.outPkts.toNat + n) } t { s.track t with cc := cc } := by
  obtain ⟨p, d, pcr, _, _, _, _, _, hcap, hemit⟩ := packetize_ok h
  obtain ⟨hm, rfl⟩ := State.emitPackets_ok hemit
  rw [length_packets]
  exact ⟨_, _, fun hwf => Memory.wf_writeBytes hwf hm, hcap, rfl⟩

/-- Packetizing in a session keeps the invariant, whatever the sequencer's phase. -/
theorem packetize_keeps_ok {t : TrackId} {src size sid pid n : Nat} {pts dts : Word64} {isPcr : Bool}
    {s u : State} (h : packetize t src size pts dts sid pid isPcr s = .ok (u, n)) (p : Phase)
    (hs : (s.inPhase p).Ok) (hon : s.session ≠ .off) : (u.inPhase p).Ok := by
  obtain ⟨m, cc, hm, hcap, rfl⟩ := packetize_step h
  have hmax := s.outCap.isLt
  have hsize : s.outWr.toNat = 188 * s.outPkts.toNat := hs.outSize
  have hwr : (BitVec.ofNat 32 (s.outWr.toNat + 188 * n)).toNat = s.outWr.toNat + 188 * n := by
    rw [BitVec.toNat_ofNat]; omega
  have hpkts : (BitVec.ofNat 32 (s.outPkts.toNat + n)).toNat = s.outPkts.toNat + n := by
    rw [BitVec.toNat_ofNat]; omega
  have hout := (hs.withMem (hm hs.mem)).withOutput hon (pkts := BitVec.ofNat 32 (s.outPkts.toNat + n))
    (by rw [hwr, hpkts]; omega) (hwr ▸ hcap)
  have htrack := (hout.track t).withFree (s.track t).codec (s.track t).repeatSeg (s.track t).hasDts
    (s.track t).tbufBase cc (s.track t).tsNext
  cases t
  · exact hout.setTrack htrack (fun _ => ⟨rfl, rfl⟩) (fun hoff => absurd hoff hon)
  · exact hout.setTrack htrack (fun _ => ⟨rfl, rfl⟩) (fun hoff => absurd hoff hon)

/-! ## A selection -/

theorem State.avail_of_select {s : State} {t : TrackId} (h : s.select = some t) : s.avail t = true :=
  (hasFrame_iff_avail s t).mp <| by
    have hturn := (turnOf_iff_select s t).mpr h
    cases t
    · exact hturn.1
    · exact hturn.1

/-- A selection takes no more frames than the track has left. -/
theorem batchSize_le {s : State} {t : TrackId} (h : s.avail t = true) :
    s.nextFrame t + s.batchSize t ≤ (s.track t).nFrames.toNat := by
  have hlt : s.nextFrame t < (s.track t).nFrames.toNat := of_decide_eq_true h
  cases t
  · exact hlt
  · have hmin : s.batchSize .audio ≤ s.audio.nFrames.toNat - s.nextFrame .audio := Nat.min_le_right _ _
    rw [State.track_audio] at hlt ⊢
    omega

/-- The frames a selection consumes, and where their bytes end. -/
theorem consumed_within {s : State} {t : TrackId} (hok : (s.track t).Ok) (h : s.avail t = true) :
    (s.track t).framesWritten.toNat + s.batchSize t ≤ (s.track t).nFrames.toNat ∧
    (s.extent t (s.track t).framesWritten.toNat).offset.toNat +
      s.batchBytes t (s.track t).framesWritten.toNat (s.batchSize t) ≤ (s.track t).wrCur.toNat := by
  have hnext : s.nextFrame t = (s.track t).framesWritten.toNat := by simp [State.nextFrame, hok.first]
  have hbatch := batchSize_le h
  have hlt : s.nextFrame t < (s.track t).nFrames.toNat := of_decide_eq_true h
  rw [hnext] at hbatch hlt
  rw [← hok.extentsHeld] at hlt
  refine ⟨hbatch, batchBytes_le ?_ (hok.extentsHeld ▸ hbatch)⟩
  have hext : s.extent t (s.track t).framesWritten.toNat = (s.track t).extents[(s.track t).framesWritten.toNat] := by
    simp [State.extent, hlt]
  rw [hext]
  exact contiguous_drop hok.noGap hlt

/-! ## What a pass keeps -/

/-- `P` holds of the state in which a pass, or a phase of it, ends. -/
def Pass.Ends (P : State → Prop) : Pass → Prop
  | .done s => P s
  | .failed _ s => P s
  | .fault _ => True

theorem Pass.Ends.ofResult {P : State → Prop} {s : State} {r : Result State} (hs : P s)
    (hr : ∀ u, r = .ok u → P u) : (Pass.ofResult s r).Ends P := by
  cases r with
  | ok u => exact hr u rfl
  | err e => exact hs
  | fault f => trivial

theorem Pass.Ends.andThen {P : State → Prop} {p : Pass} {k : State → Pass} (hp : p.Ends P)
    (hk : ∀ u, P u → (k u).Ends P) : (p.andThen k).Ends P := by
  cases p with
  | done u => exact hk u hp
  | failed e u => exact hp
  | fault f => trivial

/-- The one induction over the selections of a pass, each of a track that has a frame left. -/
theorem selectLoop_ends {P : State → Prop}
    (hmux : ∀ t s u, P s → s.avail t = true → mux t s = .ok u → P u) (fuel : Nat) {s : State} (hs : P s) :
    (selectLoop fuel s).Ends P := by
  induction fuel generalizing s with
  | zero =>
    unfold selectLoop
    cases s.select
    · exact hs
    · trivial
  | succ n ih =>
    unfold selectLoop
    cases hsel : s.select with
    | none => exact hs
    | some t =>
      exact (Pass.Ends.ofResult hs fun u hu => hmux t s u hs (State.avail_of_select hsel) hu).andThen
        fun u hu => ih hu

/-- What the tables and every mux keep and the phase does not enter holds where a pass ends. -/
theorem remuxPass_ends {P : State → Prop} (hphase : ∀ s p, P s → P (s.inPhase p))
    (htables : ∀ s u, P s → remuxTables s = .ok u → P u)
    (hmux : ∀ t s u, P s → s.avail t = true → mux t s = .ok u → P u) {s : State} (hs : P s.releaseOutput) :
    (remuxPass s).Ends P := by
  have htab := hphase _ .tables hs
  refine (Pass.Ends.ofResult htab fun u hu => htables _ u htab hu).andThen fun s1 h1 => ?_
  have hlead := hphase _ .lead h1
  refine (Pass.Ends.ofResult hlead fun u hu => ?_).andThen fun s2 h2 => ?_
  · unfold remuxLead at hu
    split_ifs at hu with havail
    · exact hmux .video _ u hlead havail hu
    · exact Result.ok.inj hu ▸ hlead
  · exact (selectLoop_ends hmux _ (hphase _ .select h2)).andThen fun s3 h3 => hphase _ .done h3

theorem remuxTables_step {s u : State} (h : remuxTables s = .ok u) :
    ∃ m, (s.mem.wf = true → m.wf = true) ∧ 376 ≤ s.outCap.toNat ∧
      u = { s with mem := m, outWr := 376#32, outPkts := 2#32, psiCc := s.psiCc + 1#4 } := by
  unfold remuxTables at h
  split_ifs at h with hcap
  obtain ⟨s1, hpat, h⟩ := Result.bind_eq_ok.mp h
  obtain ⟨s2, hpmt, h⟩ := Result.bind_eq_ok.mp h
  obtain ⟨hm1, rfl⟩ := State.store_ok hpat
  obtain ⟨hm2, rfl⟩ := State.store_ok hpmt
  exact ⟨_, fun hwf => Memory.wf_writeBytes (Memory.wf_writeBytes hwf hm1) hm2, not_lt.mp hcap,
    (Result.ok.inj h).symm⟩

/-- A good state of a session but for the sequencer's phase. -/
def State.OkInPass (s : State) : Prop := (s.inPhase .idle).Ok ∧ s.session ≠ .off

theorem remuxTables_keeps_ok {s u : State} (hs : s.OkInPass) (h : remuxTables s = .ok u) : u.OkInPass := by
  obtain ⟨hok, hon⟩ := hs
  obtain ⟨m, hm, hcap, rfl⟩ := remuxTables_step h
  exact ⟨((hok.withMem (hm hok.mem)).withOutput (wr := 376#32) (pkts := 2#32) hon rfl hcap).withFree
    _ _ _ _ _ _ _ _, hon⟩

theorem packetize_track {t : TrackId} {src size sid pid n : Nat} {pts dts : Word64} {isPcr : Bool} {s u : State}
    (h : packetize t src size pts dts sid pid isPcr s = .ok (u, n)) :
    u.session = s.session ∧ ∃ cc, u.track t = { s.track t with cc := cc } := by
  obtain ⟨m, cc, _, _, rfl⟩ := packetize_step h
  exact ⟨State.setTrack_session _ _ _, cc, State.track_setTrack_same _ _ _⟩

theorem State.inPhase_setTrack (s : State) (p : Phase) (t : TrackId) (tr : TrackState) :
    (s.setTrack t tr).inPhase p = (s.inPhase p).setTrack t tr := by cases t <;> rfl

theorem mux_keeps_ok {t : TrackId} {s u : State} (hs : s.OkInPass) (havail : s.avail t = true)
    (h : mux t s = .ok u) : u.OkInPass := by
  obtain ⟨hok, hon⟩ := hs
  obtain ⟨v, n, hpack, rfl⟩ := mux_ok h
  have hv := packetize_keeps_ok hpack .idle hok hon
  have hvt := hv.track t
  obtain ⟨hframes, hbytes⟩ := consumed_within (State.inPhase_track s .idle t ▸ hok.track t) havail
  obtain ⟨hsession, cc, htrack⟩ := packetize_track hpack
  refine ⟨?_, by rwa [State.setTrack_session, hsession]⟩
  rw [State.inPhase_setTrack]
  rw [State.inPhase_track] at hvt
  refine hv.setTrack (hvt.consumed_ok ?_ ?_) (fun _ => ?_) fun hoff => absurd (hsession ▸ hoff) hon
  · rwa [htrack]
  · rwa [htrack]
  · simp

theorem State.ok_of_inPhase {s : State} {p : Phase} (h : (s.inPhase p).Ok) (hp : s.phase = p) : s.Ok := by
  subst hp
  exact h

theorem remuxPass_keeps_ok {s : State} (hs : s.Ok) (hon : s.session ≠ .off) :
    (remuxPass s).Ends State.OkInPass := by
  have hrelease : s.releaseOutput.Ok :=
    (hs.withOutput (wr := 0#32) (pkts := 0#32) hon rfl (Nat.zero_le _)).withFree _ _ _ _ _ _ _ _
  have hidle : s.releaseOutput.inPhase .idle = s.releaseOutput := by rw [← hs.phase]; rfl
  exact remuxPass_ends (fun _ _ hs => hs) (fun _ _ => remuxTables_keeps_ok) (fun _ _ _ => mux_keeps_ok)
    ⟨hidle.symm ▸ hrelease, hon⟩

/-! ## The commands -/

theorem Raised.ok {s t : State} (h : Raised s t) (hs : s.Ok) : t.Ok := by
  obtain ⟨e, rfl⟩ := h
  exact hs.raiseError e

theorem Built.ok {s t : State} (h : Built s t) (hs : s.Ok) : t.Ok := by
  obtain ⟨a, bs, r0, r1, hm, rfl⟩ := h
  exact ((hs.withMem (Memory.wf_writeBytes hs.mem hm)).releaseWriter).complete r0 r1

theorem WriterStep.ok {s u : State} (h : WriterStep s u) (hs : s.Ok) (hvalid : s.bwValid = true) : u.Ok := by
  obtain ⟨m, b, rfl, hm, hb⟩ := h
  exact (hs.withMem (hm hs.mem)).withWriter fun _ => hb (hs.writer hvalid)

theorem appendFrame_keeps_ok {t : TrackId} {src size pts dts : Word64} {key : Bool} {s u : State}
    (h : appendFrame t src size pts dts key s = .ok u) (hsize : size.toNat < 2 ^ 32) (hs : s.Ok)
    (hon : s.session ≠ .off) : u.Ok := by
  obtain ⟨hpts, hdts, hroom, hcap, hmem, rfl⟩ := appendFrame_ok h
  have hlow : (low32 size).toNat = size.toNat := by
    rw [low32, BitVec.toNat_setWidth]; exact Nat.mod_eq_of_lt hsize
  have hwf : (s.mem.writeBytes ((s.track t).tbufBase.toNat + (s.track t).wrCur.toNat)
      (s.mem.readBytes src.toNat size.toNat)).wf = true :=
    Memory.wf_writeBytes hs.mem (by rwa [Memory.length_readBytes])
  exact (hs.withMem hwf).setTrack ((hs.track t).withFrame_ok hpts hdts hroom (hlow.symm ▸ hcap))
    (fun _ => by cases t <;> exact ⟨rfl, rfl⟩) fun hoff => absurd hoff hon

theorem State.Ok.advanceTime {s : State} (hs : s.Ok) (t : TrackId) : (s.advanceTime t).Ok :=
  hs.setTrack ((hs.track t).withFree _ _ _ _ _ _) (fun _ => ⟨rfl, rfl⟩) fun hoff => hs.track_wrCur hoff t

theorem Appended.ok {t0 : TrackId} {finish : State → State} {s t : State} (h : Appended t0 finish s t)
    (hfinish : ∀ u : State, u.Ok → (finish u).Ok) (hs : s.Ok) : t.Ok := by
  obtain ⟨hready, src, size, pts, dts, key, u, r0, r1, hreg, happend, rfl⟩ := h
  obtain ⟨_, hsize, _⟩ := (regionOk_iff src size).mp hreg
  have hon : s.session ≠ .off := by rw [hready]; decide
  exact (hfinish u (appendFrame_keeps_ok happend hsize hs hon)).complete r0 r1

/-- A legal `WRREG` keeps the invariant: regions move outside a session only (10_state.md R24, R25). -/
theorem State.Ok.writeReg {s : State} (hs : s.Ok) {reg : Reg} {v : Word64}
    (hoff : reg.access = .rwOff → s.session = .off) (hlegal : regLegal v reg = true) : (s.writeReg v reg).Ok := by
  rcases reg with g | ⟨t, k⟩
  · cases g
    case pmtPid =>
      have hv : 1 ≤ v.toNat ∧ v.toNat ≤ 0x1FFD := of_decide_eq_true hlegal
      exact hs.withConfig (by rw [BitVec.toNat_setWidth]; omega) hs.config.audioBatch hs.config.bias
    case audioBatch =>
      have hv : 1 ≤ v.toNat ∧ v.toNat ≤ 1000 := of_decide_eq_true hlegal
      exact hs.withConfig hs.config.pmtPid (by rw [BitVec.toNat_setWidth]; omega) hs.config.bias
    case bias => exact hs.withConfig hs.config.pmtPid hs.config.audioBatch hlegal
    case tsid => exact hs.withFree _ _ _ _ _ _ _ _
    case psiCc => exact hs.withFree _ _ _ _ _ _ _ _
    case outBase => exact hs.withOutRegion (hoff rfl) _ _
    case outCap => exact hs.withOutRegion (hoff rfl) _ _
    all_goals exact hs
  · have htrack := hs.track t
    cases k
    case tbufBase =>
      exact hs.setTrack (htrack.withFree _ _ _ _ _ _) (fun hon => absurd (hoff rfl) hon)
        fun hoff => hs.track_wrCur hoff t
    case tbufCap =>
      exact hs.setTrack (htrack.withCap (hs.track_wrCur (hoff rfl) t) _) (fun hon => absurd (hoff rfl) hon)
        fun hoff => hs.track_wrCur hoff t
    all_goals
      exact hs.setTrack (htrack.withFree _ _ _ _ _ _) (fun _ => ⟨rfl, rfl⟩) fun hoff => hs.track_wrCur hoff t

section Commands
variable {s t : State}

theorem execBwInit_keeps_ok {base bound : Word64} (hs : s.Ok) (h : execBwInit base bound s = .next t) : t.Ok := by
  rcases execBwInit_next h with he | ⟨hreg, rfl⟩
  · exact he.ok hs
  · exact (hs.withWriter fun _ => BitWriter.started_ok hreg).complete _ _

theorem execPutBits_keeps_ok {width : BitVec 8} {value : Word64} (hs : s.Ok)
    (h : execPutBits width value s = .next t) : t.Ok := by
  rcases execPutBits_next h with he | ⟨hvalid, hw, u, hu, rfl⟩
  · exact he.ok hs
  · exact ((bwPut_step hw hu).ok hs hvalid).complete _ _

theorem execPutBits64_keeps_ok {width : BitVec 8} {value : Word64} (hs : s.Ok)
    (h : execPutBits64 width value s = .next t) : t.Ok := by
  rcases execPutBits64_next h with he | ⟨hvalid, hw, u, hu, rfl⟩
  · exact he.ok hs
  · exact ((bwPut64_step hw hu).ok hs hvalid).complete _ _

theorem execBwFlush_keeps_ok (hs : s.Ok) (h : execBwFlush s = .next t) : t.Ok := by
  rcases execBwFlush_next h with he | ⟨hvalid, u, hu, rfl⟩
  · exact he.ok hs
  · exact ((bwFlush_step hu).ok hs hvalid).complete _ _

theorem execBwCount_keeps_ok (hs : s.Ok) (h : execBwCount s = .next t) : t.Ok := by
  rcases execBwCount_next h with he | rfl
  · exact he.ok hs
  · exact hs.complete _ _

theorem execWrreg_keeps_ok {reg : Reg} {value : Word64} (hs : s.Ok) (h : execWrreg reg value s = .next t) :
    t.Ok := by
  rcases execWrreg_next h with he | ⟨hoff, hlegal, rfl⟩
  · exact he.ok hs
  · exact (hs.writeReg hoff hlegal).complete _ _

theorem execCrc32_keeps_ok {seed addr len : Word64} (hs : s.Ok) (h : execCrc32 seed addr len s = .next t) :
    t.Ok := by
  rcases execCrc32_next h with he | ⟨r0, rfl⟩
  · exact he.ok hs
  · exact hs.complete _ _

theorem execPack_keeps_ok {pcr track : Bool} {src size pts dts streamId pid : Word64} (hs : s.Ok)
    (h : execPack pcr track src size pts dts streamId pid s = .next t) : t.Ok := by
  rcases execPack_next h with he | ⟨hready, u, n, r1, hpack, rfl⟩
  · exact he.ok hs
  · have hon : s.session ≠ .off := by rw [hready]; decide
    have hphase : u.phase = s.phase := by
      obtain ⟨m, cc, _, _, rfl⟩ := packetize_step hpack
      exact State.setTrack_phase _ _ _
    have hu : u.Ok := State.ok_of_inPhase (packetize_keeps_ok hpack s.phase hs hon) hphase
    exact (hu.releaseWriter.withFree false u.err u.errlog u.res0 u.res1 u.tsid u.psiCc u.port).complete _ _

theorem execRemux_keeps_ok (hs : s.Ok) (h : execRemux s = .next t) : t.Ok := by
  rcases execRemux_next h with he | ⟨hgate, hpass⟩
  · exact he.ok hs
  have hon : s.session ≠ .off := by
    intro hoff
    simp [State.remuxGate, hoff] at hgate
  have hends := remuxPass_keeps_ok hs hon
  rcases hpass with ⟨u, hdone, rfl⟩ | ⟨e, u, hfailed, rfl⟩
  · rw [hdone] at hends
    obtain ⟨hu, _⟩ := hends
    exact (hu.releaseWriter.withFree true u.err u.errlog u.res0 u.res1 u.tsid u.psiCc u.port).complete _ _
  · rw [hfailed] at hends
    obtain ⟨hu, huon⟩ := hends
    exact ((hu.emptyOutput .failed (fun _ => hu.regions huon) nofun).releaseWriter.withFree false u.err u.errlog
      u.res0 u.res1 u.tsid u.psiCc u.port).raiseError e

theorem execInit_keeps_ok {frameRate sampleRate channelCount : Word64} (hs : s.Ok)
    (h : execInit frameRate sampleRate channelCount s = .next t) : t.Ok := by
  rcases execInit_next h with he | ⟨husable, vinc, ainc, rfl⟩
  · exact he.ok hs
  · exact ((hs.emptyTracks (s.video.opened_ok _ _ vinc) (s.audio.opened_ok _ _ ainc) rfl rfl
      (session := .ready) fun _ => husable).withFree false s.err s.errlog s.res0 s.res1 s.tsid 0#4 s.port).complete _ _

theorem execReset_keeps_ok (hs : s.Ok) (h : execReset s = .next t) : t.Ok := by
  rcases execReset_next h with he | ⟨hon, rfl⟩
  · exact he.ok hs
  · exact ((hs.emptyTracks s.video.emptied_ok s.audio.emptied_ok rfl rfl (session := .ready)
      fun _ => hs.regions hon).withFree false s.err s.errlog s.res0 s.res1 s.tsid s.psiCc s.port).complete _ _

theorem execTeardown_keeps_ok (hs : s.Ok) (h : execTeardown s = .next t) : t.Ok := by
  obtain rfl := succeed_next h
  exact ((hs.emptyTracks s.video.closed_ok s.audio.closed_ok rfl rfl (session := .off) fun hon =>
    absurd rfl hon).withFree false s.err 0#32 s.res0 s.res1 s.tsid 0#4 s.port).complete _ _

end Commands

/-- Every command keeps the invariant of the block. -/
theorem exec_keeps_ok {i : Instr} {s t : State} (hs : s.Ok) (h : exec i s = .next t) : t.Ok := by
  cases i with
  | bwInit base bound => exact execBwInit_keeps_ok hs h
  | putBits width value => exact execPutBits_keeps_ok hs h
  | putBits64 width value => exact execPutBits64_keeps_ok hs h
  | bwFlush => exact execBwFlush_keeps_ok hs h
  | bwCount => exact execBwCount_keeps_ok hs h
  | wrreg reg value => exact execWrreg_keeps_ok hs h
  | rdreg reg => exact succeed_next h ▸ hs.complete _ _
  | crc32 seed addr len => exact execCrc32_keeps_ok hs h
  | tsHdr => exact (execTsHdr_next h).elim (·.ok hs) (·.ok hs)
  | pesHdr => exact (execPesHdr_next h).elim (·.ok hs) (·.ok hs)
  | pack => exact execPack_keeps_ok hs h
  | pat dst counter => exact (writeTable_next h).elim (·.ok hs) (·.ok hs)
  | pmt dst counter => exact (writeTable_next h).elim (·.ok hs) (·.ok hs)
  | remux => exact execRemux_keeps_ok hs h
  | init => exact execInit_keeps_ok hs h
  | append => exact (execAppend_next h).elim (·.ok hs) (·.ok (fun _ hu => hu) hs)
  | acceptV => exact (acceptFrame_next h).elim (·.ok hs) (·.ok (fun _ hu => hu.advanceTime _) hs)
  | acceptA => exact (acceptFrame_next h).elim (·.ok hs) (·.ok (fun _ hu => hu.advanceTime _) hs)
  | reset => exact execReset_keeps_ok hs h
  | teardown => exact execTeardown_keeps_ok hs h

/-- Settles O56: a step takes words from the port, which the invariant does not read, and runs a command. -/
theorem stepKeepsTheGoodState : Obligations.StepKeepsTheGoodState := by
  intro s t hs h
  rcases step_cases s with ⟨_, hstep⟩ | ⟨_, hstep⟩ | ⟨_, hstep⟩ | ⟨_, rest, _, hstep⟩ | ⟨i, rest, _, hstep⟩ <;>
    rw [hstep] at h
  · exact Host.Outcome.next.inj h ▸ hs
  · exact Host.Outcome.next.inj h ▸ hs
  · cases h
  · exact Host.Outcome.next.inj h ▸ (hs.setPort rest).raiseError _
  · exact exec_keeps_ok (hs.setPort rest) h

end Sys2Proof.Machine
end

section

/-! The frame arrays: a command leaves a track's arrays, appends one entry to them, or empties them (10_state.md R37,
47_session.md R231). -/

namespace Sys2Proof.Machine

/-! ## What a command does to the arrays of a track -/

/-- `tr'` has the frame count and the entries of `tr`. -/
def SameFrames (tr tr' : TrackState) : Prop :=
  tr'.nFrames = tr.nFrames ∧ tr'.infos = tr.infos ∧ tr'.extents = tr.extents

theorem SameFrames.refl (tr : TrackState) : SameFrames tr tr := ⟨rfl, rfl, rfl⟩

theorem SameFrames.trans {a b c : TrackState} (hab : SameFrames a b) (hbc : SameFrames b c) : SameFrames a c :=
  ⟨hbc.1.trans hab.1, hbc.2.1.trans hab.2.1, hbc.2.2.trans hab.2.2⟩

/-- No track's arrays change. -/
def KeepsFrames (s t : State) : Prop := ∀ tr, SameFrames (s.track tr) (t.track tr)

theorem KeepsFrames.of_tracks {s t : State} (hvideo : SameFrames s.video t.video)
    (haudio : SameFrames s.audio t.audio) : KeepsFrames s t
  | .video => hvideo
  | .audio => haudio

theorem KeepsFrames.of_eq {s t : State} (hvideo : t.video = s.video) (haudio : t.audio = s.audio) :
    KeepsFrames s t := .of_tracks (hvideo ▸ .refl _) (haudio ▸ .refl _)

theorem KeepsFrames.trans {s t u : State} (hst : KeepsFrames s t) (htu : KeepsFrames t u) : KeepsFrames s u :=
  fun tr => (hst tr).trans (htu tr)

theorem KeepsFrames.setTrack {s : State} {t : TrackId} {tr : TrackState} (h : SameFrames (s.track t) tr) :
    KeepsFrames s (s.setTrack t tr) := by
  cases t
  · exact .of_tracks h (.refl _)
  · exact .of_tracks (.refl _) h

theorem Raised.keepsFrames {s t : State} (h : Raised s t) : KeepsFrames s t := by
  obtain ⟨e, rfl⟩ := h
  exact .of_eq rfl rfl

theorem Built.keepsFrames {s t : State} (h : Built s t) : KeepsFrames s t := by
  obtain ⟨_, _, _, _, _, rfl⟩ := h
  exact .of_eq rfl rfl

theorem WriterStep.keepsFrames {s u : State} (h : WriterStep s u) : KeepsFrames s u := by
  obtain ⟨_, _, rfl, _, _⟩ := h
  exact .of_eq rfl rfl

theorem keepsFrames_writeReg (s : State) (v : Word64) (reg : Reg) : KeepsFrames s (s.writeReg v reg) := by
  rcases reg with g | ⟨t, k⟩
  · cases g <;> exact .of_eq rfl rfl
  · refine .setTrack ?_
    cases k <;> exact ⟨rfl, rfl, rfl⟩

theorem packetize_keepsFrames {t : TrackId} {src size sid pid n : Nat} {pts dts : Word64} {isPcr : Bool}
    {s u : State} (h : packetize t src size pts dts sid pid isPcr s = .ok (u, n)) : KeepsFrames s u := by
  obtain ⟨m, cc, _, _, rfl⟩ := packetize_step h
  refine KeepsFrames.trans (t := { s with mem := m, outWr := _, outPkts := _ }) (.of_eq rfl rfl) (.setTrack ?_)
  cases t <;> exact ⟨rfl, rfl, rfl⟩

theorem mux_keepsFrames {t : TrackId} {s u : State} (h : mux t s = .ok u) : KeepsFrames s u := by
  obtain ⟨v, n, hpack, rfl⟩ := mux_ok h
  exact (packetize_keepsFrames hpack).trans (.setTrack ⟨rfl, rfl, rfl⟩)

theorem remuxTables_keepsFrames {s u : State} (h : remuxTables s = .ok u) : KeepsFrames s u := by
  obtain ⟨m, _, _, rfl⟩ := remuxTables_step h
  exact .of_eq rfl rfl

theorem remuxPass_keepsFrames (s : State) : (remuxPass s).Ends (KeepsFrames s) :=
  remuxPass_ends (fun _ _ hs => hs.trans (.of_eq rfl rfl))
    (fun _ _ hs h => hs.trans (remuxTables_keepsFrames h))
    (fun _ _ _ hs _ h => hs.trans (mux_keepsFrames h)) (.of_eq rfl rfl)

theorem execRemux_keepsFrames {s t : State} (h : execRemux s = .next t) : KeepsFrames s t := by
  have hends := remuxPass_keepsFrames s
  rcases execRemux_next h with he | ⟨_, ⟨u, hdone, rfl⟩ | ⟨e, u, hfailed, rfl⟩⟩
  · exact he.keepsFrames
  · rw [hdone] at hends
    exact hends.trans (.of_eq rfl rfl)
  · rw [hfailed] at hends
    exact hends.trans (.of_eq rfl rfl)

/-- One entry goes to the arrays of one track, the other track's arrays stay (47_session.md R230). -/
def AppendsFrame (s t : State) : Prop :=
  ∃ t0 size pts dts key, SameFrames ((s.track t0).withFrame t0 size pts dts key) (t.track t0) ∧
    ∀ tr, tr ≠ t0 → SameFrames (s.track tr) (t.track tr)

theorem appendFrame_appendsFrame {t0 : TrackId} {src size pts dts : Word64} {key : Bool} {s u : State}
    (h : appendFrame t0 src size pts dts key s = .ok u) : AppendsFrame s u := by
  obtain ⟨_, _, _, _, _, rfl⟩ := appendFrame_ok h
  refine ⟨t0, low32 size, pts, dts, key, ?_, fun tr hne => ?_⟩
  · rw [State.track_setTrack_same]
    exact .refl _
  · rw [State.track_setTrack_other _ hne]
    cases tr <;> exact .refl _

theorem AppendsFrame.trans {s u t : State} (h : AppendsFrame s u) (hut : KeepsFrames u t) : AppendsFrame s t := by
  obtain ⟨t0, size, pts, dts, key, hnew, hother⟩ := h
  exact ⟨t0, size, pts, dts, key, hnew.trans (hut t0), fun tr hne => (hother tr hne).trans (hut tr)⟩

theorem Appended.appendsFrame {t0 : TrackId} {finish : State → State} {s t : State}
    (h : Appended t0 finish s t) (hfinish : ∀ u, KeepsFrames u (finish u)) : AppendsFrame s t := by
  obtain ⟨_, src, size, pts, dts, key, u, r0, r1, _, happend, rfl⟩ := h
  exact (appendFrame_appendsFrame happend).trans ((hfinish u).trans (.of_eq rfl rfl))

theorem keepsFrames_advanceTime (t0 : TrackId) (u : State) : KeepsFrames u (u.advanceTime t0) :=
  .setTrack ⟨rfl, rfl, rfl⟩

/-- The commands that release the frame arrays. -/
def Releases (i : Instr) : Prop := i = .reset ∨ i = .teardown ∨ ∃ f r c, i = .init f r c

/-- All that a command can do to the frame arrays. -/
theorem exec_frames {i : Instr} {s t : State} (h : exec i s = .next t) :
    KeepsFrames s t ∨ AppendsFrame s t ∨ Releases i ∧ ∀ tr, (t.track tr).nFrames = 0#32 := by
  cases i with
  | bwInit =>
    rcases execBwInit_next h with he | ⟨_, rfl⟩
    · exact .inl he.keepsFrames
    · exact .inl (.of_eq rfl rfl)
  | putBits =>
    rcases execPutBits_next h with he | ⟨_, hw, u, hu, rfl⟩
    · exact .inl he.keepsFrames
    · exact .inl (bwPut_step hw hu).keepsFrames
  | putBits64 =>
    rcases execPutBits64_next h with he | ⟨_, hw, u, hu, rfl⟩
    · exact .inl he.keepsFrames
    · exact .inl (bwPut64_step hw hu).keepsFrames
  | bwFlush =>
    rcases execBwFlush_next h with he | ⟨_, u, hu, rfl⟩
    · exact .inl he.keepsFrames
    · exact .inl (bwFlush_step hu).keepsFrames
  | bwCount =>
    rcases execBwCount_next h with he | rfl
    · exact .inl he.keepsFrames
    · exact .inl (.of_eq rfl rfl)
  | wrreg reg value =>
    rcases execWrreg_next h with he | ⟨_, _, rfl⟩
    · exact .inl he.keepsFrames
    · exact .inl (keepsFrames_writeReg s value reg)
  | rdreg =>
    obtain rfl := succeed_next h
    exact .inl (.of_eq rfl rfl)
  | crc32 =>
    rcases execCrc32_next h with he | ⟨_, rfl⟩
    · exact .inl he.keepsFrames
    · exact .inl (.of_eq rfl rfl)
  | tsHdr => exact .inl ((execTsHdr_next h).elim (·.keepsFrames) (·.keepsFrames))
  | pesHdr => exact .inl ((execPesHdr_next h).elim (·.keepsFrames) (·.keepsFrames))
  | pack =>
    rcases execPack_next h with he | ⟨_, u, n, r1, hpack, rfl⟩
    · exact .inl he.keepsFrames
    · exact .inl ((packetize_keepsFrames hpack).trans (.of_eq rfl rfl))
  | pat => exact .inl ((writeTable_next h).elim (·.keepsFrames) (·.keepsFrames))
  | pmt => exact .inl ((writeTable_next h).elim (·.keepsFrames) (·.keepsFrames))
  | remux => exact .inl (execRemux_keepsFrames h)
  | init =>
    rcases execInit_next h with he | ⟨_, _, _, rfl⟩
    · exact .inl he.keepsFrames
    · exact .inr (.inr ⟨.inr (.inr ⟨_, _, _, rfl⟩), fun tr => by cases tr <;> rfl⟩)
  | append =>
    rcases execAppend_next h with he | ha
    · exact .inl he.keepsFrames
    · exact .inr (.inl (ha.appendsFrame fun u => .of_eq rfl rfl))
  | acceptV =>
    rcases acceptFrame_next h with he | ha
    · exact .inl he.keepsFrames
    · exact .inr (.inl (ha.appendsFrame (keepsFrames_advanceTime _)))
  | acceptA =>
    rcases acceptFrame_next h with he | ha
    · exact .inl he.keepsFrames
    · exact .inr (.inl (ha.appendsFrame (keepsFrames_advanceTime _)))
  | reset =>
    rcases execReset_next h with he | ⟨_, rfl⟩
    · exact .inl he.keepsFrames
    · exact .inr (.inr ⟨.inl rfl, fun tr => by cases tr <;> rfl⟩)
  | teardown =>
    obtain rfl := succeed_next h
    exact .inr (.inr ⟨.inr (.inl rfl), fun tr => by cases tr <;> rfl⟩)

/-! ## Valid entries stay -/

/-- Every valid entry of track `tr` is still valid and as it was. -/
def EntriesStay (s t : State) (tr : TrackId) : Prop :=
  ∀ j, j < (s.track tr).nFrames.toNat →
    j < (t.track tr).nFrames.toNat ∧ t.info tr j = s.info tr j ∧ t.extent tr j = s.extent tr j

theorem SameFrames.entriesStay {s t : State} {tr : TrackId} (h : SameFrames (s.track tr) (t.track tr)) :
    EntriesStay s t tr := by
  obtain ⟨hcount, hinfos, hextents⟩ := h
  intro j hj
  exact ⟨hcount ▸ hj, by rw [State.info, State.info, hinfos], by rw [State.extent, State.extent, hextents]⟩

/-- An append to a good track puts its entry behind the valid ones. -/
theorem entriesStay_of_withFrame {s t : State} {tr : TrackId} {size : Word32} {pts dts : Word64} {key : Bool}
    (hs : (s.track tr).Ok) (ht : (t.track tr).Ok)
    (h : SameFrames ((s.track tr).withFrame tr size pts dts key) (t.track tr)) : EntriesStay s t tr := by
  obtain ⟨_, hinfos, hextents⟩ := h
  rw [hs.withFrame_infos_append] at hinfos
  rw [hs.withFrame_extents_append] at hextents
  intro j hj
  refine ⟨?_, ?_, ?_⟩
  · rw [← ht.infosHeld, hinfos, List.length_append, hs.infosHeld]
    exact Nat.lt_add_right _ hj
  · rw [State.info, State.info, hinfos, List.getD_append _ _ _ _ (hs.infosHeld ▸ hj)]
  · rw [State.extent, State.extent, hextents, List.getD_append _ _ _ _ (hs.extentsHeld ▸ hj)]

/-- Settles O49: `exec_keeps_ok` gives the lengths, `exec_frames` the three ways an array can go. -/
theorem framesAreImmutable : Obligations.FramesAreImmutable := by
  intro i s t hs h tr
  have hok := (exec_keeps_ok hs h).track tr
  refine ⟨hok.infosHeld, hok.extentsHeld, ?_⟩
  rcases exec_frames h with hkeep | ⟨t0, size, pts, dts, key, hnew, hother⟩ | ⟨hi, hzero⟩
  · exact .inl (hkeep tr).entriesStay
  · by_cases htr : tr = t0
    · subst htr
      exact .inl (entriesStay_of_withFrame (hs.track tr) hok hnew)
    · exact .inl (hother tr htr).entriesStay
  · exact .inr ⟨hzero tr, hi⟩

end Sys2Proof.Machine
end

section

/-! The register file: its values and the invariant after hardware reset, the legal sets of `WRREG`, and the fields of
`STATUS` (10_state.md R22, R24, R25, R46). -/

namespace Sys2Proof.Machine

/-! ## Hardware reset -/

/-- The contents of `M` reach no register. -/
theorem readReg_hardwareReset (contents : Memory) (r : Reg) :
    (State.hardwareReset contents).readReg r = State.reset.readReg r := by
  rcases r with g | ⟨t, k⟩
  · cases g <;> rfl
  · cases t <;> rfl

/-- Settles O7: no register depends on `M`, so the table is that of `State.reset`. -/
theorem resetRegisterValues : Obligations.ResetRegisterValues := by
  intro contents
  simp only [readReg_hardwareReset]
  exact ⟨by decide +kernel, rfl, rfl⟩

theorem TrackState.reset_ok (codec : BitVec 8) (cap : Word32) : (TrackState.reset codec cap).Ok :=
  ok_of_empty rfl rfl rfl rfl rfl rfl rfl

theorem State.reset_ok : State.reset.Ok where
  mem := State.reset_mem_wf
  phase := rfl
  config := ⟨by decide, by decide, by decide +kernel⟩
  writer := nofun
  video := TrackState.reset_ok _ _
  audio := TrackState.reset_ok _ _
  outSize := rfl
  outFits := Nat.le_refl _
  regions := fun hon => absurd rfl hon
  offEmpty := fun _ => ⟨rfl, rfl, rfl⟩

/-- Settles O8: the state after reset is good, and `M` may be any canonical memory in it. -/
theorem resetStateIsGood : Obligations.ResetStateIsGood :=
  ⟨State.reset_ok, fun _ hwf => State.reset_ok.withMem hwf⟩

/-! ## The legal sets of `WRREG` (10_state.md R25) -/

/-- Behind its two gates `WRREG` raises `E_RANGE` exactly for a value that is not legal. -/
theorem wrreg_range_iff {reg : Reg} {value : Word64} {s : State} (hro : reg.access ≠ .ro)
    (hoff : reg.access = .rwOff → s.session = .off) :
    exec (.wrreg reg value) s = .next (s.raiseError .range) ↔ regLegal value reg = false := by
  have hgate : ¬ (reg.access = .rwOff ∧ s.session ≠ .off) := fun h => h.2 (hoff h.1)
  change execWrreg reg value s = _ ↔ _
  rw [execWrreg, if_neg hro, if_neg hgate]
  cases hlegal : regLegal value reg
  · simp [raise]
  · refine iff_of_false (fun h => ?_) nofun
    have herr := congrArg State.err (Host.Outcome.next.inj h)
    rw [State.complete_err, State.raiseError_err] at herr
    cases herr

theorem fits32_eq_false_iff (v : Word64) : fits32 v = false ↔ ¬ v.toNat ≤ 0xFFFFFFFF := by
  rw [fits32, decide_eq_false_iff_not]
  omega

theorem finite_eq_false_iff (v : Word64) : finite v = false ↔ ¬ v.toNat / 2 ^ 52 % 2048 ≠ 2047 := by
  simp [finite, f64Exp]

/-- Settles O10: `wrreg_range_iff`, and the legal set of each register that can be written. -/
theorem wrregRangeIsTheLegalSet : Obligations.WrregRangeIsTheLegalSet := by
  intro reg value s hro hoff
  rw [wrreg_range_iff hro hoff]
  rcases reg with g | ⟨t, k⟩
  · cases g
    case pmtPid => exact decide_eq_false_iff_not
    case tsid => exact decide_eq_false_iff_not
    case bias => exact finite_eq_false_iff value
    case audioBatch => exact decide_eq_false_iff_not
    case psiCc => exact decide_eq_false_iff_not
    case outBase => exact fits32_eq_false_iff value
    case outCap => exact fits32_eq_false_iff value
    all_goals exact absurd rfl hro
  · cases k
    case codec => exact decide_eq_false_iff_not
    case cc => exact decide_eq_false_iff_not
    case repeatSeg => exact decide_eq_false_iff_not
    case hasDts => exact decide_eq_false_iff_not
    case tbufBase => exact fits32_eq_false_iff value
    case tbufCap => exact fits32_eq_false_iff value
    all_goals exact absurd rfl hro

/-! ## `STATUS` -/

/-- The four fields joined as `STATUS` joins them, each found again at its place. -/
theorem extract_joined_fields (e : BitVec 8) (o b : Bool) (c : BitVec 2) :
    let w : BitVec (16 + 8 + 4 + 1 + 1 + 2) := 0#16 ++ e ++ 0#4 ++ BitVec.ofBool o ++ BitVec.ofBool b ++ c
    w.extractLsb' 0 2 = c ∧ w.getLsbD 2 = b ∧ w.getLsbD 3 = o ∧ w.extractLsb' 4 4 = 0#4 ∧
      w.extractLsb' 8 8 = e ∧ w.extractLsb' 16 16 = 0#16 := by
  intro w
  have above (start len : Nat) (h : 4 ≤ start) :
      w.extractLsb' start len = (0#16 ++ e ++ 0#4).extractLsb' (start - 2 - 1 - 1) len := by
    rw [BitVec.extractLsb'_append_eq_of_le (by omega), BitVec.extractLsb'_append_eq_of_le (by omega),
      BitVec.extractLsb'_append_eq_of_le (by omega)]
  refine ⟨BitVec.extractLsb'_append_eq_right, ?_, ?_, ?_, ?_, ?_⟩
  · rw [BitVec.getLsbD_append, BitVec.getLsbD_append]
    simp
  · rw [BitVec.getLsbD_append, BitVec.getLsbD_append, BitVec.getLsbD_append]
    simp
  · rw [above 4 4 (by decide)]
    exact BitVec.extractLsb'_append_eq_right
  · rw [above 8 8 (by decide), BitVec.extractLsb'_append_eq_of_le (by decide)]
    exact BitVec.extractLsb'_append_eq_right
  · rw [above 16 16 (by decide), BitVec.extractLsb'_append_eq_of_le (by decide)]
    exact BitVec.extractLsb'_append_eq_left

/-- Settles O12: `extract_joined_fields` of the flags and the codes that `STATUS` holds. -/
theorem statusWordFields : Obligations.StatusWordFields := by
  intro s
  obtain ⟨hsession, hbw, hout, hlow, herr, hhigh⟩ :=
    extract_joined_fields s.err.code s.outValid s.bwValid s.session.code
  refine ⟨hsession.trans ?_, hbw, hout, hlow, herr.trans ?_, hhigh⟩
  · cases s.session <;> rfl
  · cases s.err <;> rfl

end Sys2Proof.Machine
end

section

/-! The canonical form of `M`: the bytes that read as written list it, so it is unique, and a store is its
single-byte stores in ascending order (20_memory.md R60, R67). -/

namespace Sys2Proof.Machine

theorem lookup_of_mem {m : Memory} (hm : m.Pairwise fun c d => c.1 < d.1) {c : Host.Cell} (hc : c ∈ m) :
    m.lookup c.1 = some c.2 := by
  obtain ⟨before, after, rfl⟩ := List.append_of_mem hc
  refine List.lookup_eq_some_iff.mpr ⟨before, after, rfl, fun d hd => ?_⟩
  have hlt : d.1 < c.1 := (List.pairwise_append.mp hm).2.2 d hd c List.mem_cons_self
  simpa using hlt.ne'

/-- A canonical memory lists exactly the bytes that do not read as unwritten. -/
theorem Memory.mem_iff_read {m : Memory} (hm : m.wf = true) (c : Host.Cell) :
    c ∈ m ↔ m.read c.1 = c.2 ∧ c.2 ≠ Config.unwrittenByte := by
  obtain ⟨hsorted, hcells⟩ := (Memory.wf_iff m).mp hm
  unfold Memory.read
  constructor
  · intro hc
    exact ⟨by rw [lookup_of_mem hsorted hc, Option.getD_some], (hcells c hc).2⟩
  · rintro ⟨hread, hwritten⟩
    cases hlookup : m.lookup c.1 with
    | none => rw [hlookup] at hread; exact absurd hread.symm hwritten
    | some b =>
      rw [hlookup, Option.getD_some] at hread
      obtain ⟨before, after, rfl, _⟩ := List.lookup_eq_some_iff.mp hlookup
      subst hread
      exact List.mem_append_right _ List.mem_cons_self

/-- Settles O13: both lists are sorted by address and have the same cells. -/
theorem canonicalMemoryIsUnique : Obligations.CanonicalMemoryIsUnique := by
  intro m m' hm hm' hread
  obtain ⟨hsorted, _⟩ := (Memory.wf_iff m).mp hm
  obtain ⟨hsorted', _⟩ := (Memory.wf_iff m').mp hm'
  refine hsorted.eq_of_mem_iff hsorted' fun c => ?_
  rw [Memory.mem_iff_read hm, Memory.mem_iff_read hm', hread]

/-- A store is the store of its lowest byte and then of the others. -/
theorem Memory.writeBytes_cons {m : Memory} (hm : m.wf = true) {a : Nat} {b : Byte} {bs : List Byte}
    (h : a + (b :: bs).length ≤ Config.memSize) :
    m.writeBytes a (b :: bs) = (m.writeBytes a [b]).writeBytes (a + 1) bs := by
  rw [List.length_cons] at h
  have hfirst : (m.writeBytes a [b]).wf = true := Memory.wf_writeBytes hm (by rw [List.length_singleton]; omega)
  refine canonicalMemoryIsUnique _ _ (Memory.wf_writeBytes hm h) (Memory.wf_writeBytes hfirst (by omega)) fun x => ?_
  simp only [Memory.read_writeBytes, List.length_cons, List.length_nil]
  rcases lt_trichotomy x a with hlt | rfl | hgt
  · rw [if_neg (by omega), if_neg (by omega), if_neg (by omega)]
  · simp
  · obtain ⟨k, rfl⟩ : ∃ k, x = a + 1 + k := ⟨x - (a + 1), by omega⟩
    have hshift : a + 1 + k - a = k + 1 := by omega
    have hrest : a + 1 + k - (a + 1) = k := by omega
    rw [hshift, hrest, List.getD_cons_succ]
    by_cases hk : k < bs.length
    · rw [if_pos (by omega), if_pos (by omega)]
    · rw [if_neg (by omega), if_neg (by omega), if_neg (by omega)]

theorem Memory.writeBytes_nil {m : Memory} (hm : m.wf = true) {a : Nat} (h : a ≤ Config.memSize) :
    m.writeBytes a [] = m :=
  canonicalMemoryIsUnique _ _ (Memory.wf_writeBytes hm h) hm fun _ =>
    Memory.read_writeBytes_outside m (by rw [List.length_nil]; omega)

theorem Memory.writeBytes_eq_foldl {m : Memory} (hm : m.wf = true) {a : Nat} {bs : List Byte}
    (h : a + bs.length ≤ Config.memSize) :
    m.writeBytes a bs = (bs.zipIdx a).foldl (fun m b => m.writeBytes b.2 [b.1]) m := by
  induction bs generalizing m a with
  | nil => exact Memory.writeBytes_nil hm h
  | cons b bs ih =>
    rw [Memory.writeBytes_cons hm h, List.zipIdx_cons, List.foldl_cons]
    rw [List.length_cons] at h
    exact ih (Memory.wf_writeBytes hm (by rw [List.length_singleton]; omega)) (by omega)

theorem Memory.stored_writeBytes (m : Memory) (a : Nat) (bs : List Byte) : m.Stored (m.writeBytes a bs) a bs :=
  fun x => Memory.read_writeBytes m a x bs

/-- Settles O14: the facts about `Memory.writeBytes` for the one store that answers. -/
theorem storesAreAscendingByteWrites : Obligations.StoresAreAscendingByteWrites := by
  intro s a bs hm h
  have hin : inMemory a bs.length = true := decide_eq_true h
  refine ⟨{ s with mem := s.mem.writeBytes a bs }, if_pos hin, rfl, s.mem.stored_writeBytes a bs, ?_,
    Memory.writeBytes_eq_foldl hm h⟩
  rw [State.load, if_pos hin, Memory.readBytes_writeBytes]

end Sys2Proof.Machine
end

section

/-! Where each command stores (20_memory.md R61): the region of `footprint`, and nothing outside it. The same lemmas
give that the canonical form is kept. -/

namespace Sys2Proof.Machine

/-! ## Stores inside a region -/

/-- From `s` to `t` the memory keeps its canonical form and every byte outside `[a, a + n)`. -/
def StoresIn (a n : Nat) (s t : State) : Prop :=
  (s.mem.wf = true → t.mem.wf = true) ∧ Memory.SameOutside s.mem t.mem a n

namespace StoresIn
variable {a n : Nat} {s t u : State}

theorem of_mem_eq (h : t.mem = s.mem) : StoresIn a n s t := by
  rw [StoresIn, h]
  exact ⟨id, fun _ _ => rfl⟩

theorem congr_mem (h : StoresIn a n s t) (hmem : u.mem = t.mem) : StoresIn a n s u := by
  rwa [StoresIn, hmem]

theorem of_store {bs : List Byte} (h : s.store a bs = .ok t) : StoresIn a bs.length s t := by
  refine ⟨fun hm => State.store_wf hm h, fun x hx => ?_⟩
  obtain ⟨_, rfl⟩ := State.store_ok h
  exact Memory.read_writeBytes_outside s.mem hx

theorem mono {a' n' : Nat} (h : StoresIn a n s t) (hlow : a' ≤ a) (hhigh : a + n ≤ a' + n') :
    StoresIn a' n' s t :=
  ⟨h.1, fun x hx => h.2 x (by omega)⟩

theorem trans (hst : StoresIn a n s t) (htu : StoresIn a n t u) : StoresIn a n s u :=
  ⟨htu.1 ∘ hst.1, fun x hx => (htu.2 x hx).trans (hst.2 x hx)⟩

/-- Stores in two regions that follow one another. -/
theorem append {n' : Nat} (hst : StoresIn a n s t) (htu : StoresIn (a + n) n' t u) :
    StoresIn a (n + n') s u :=
  (hst.mono le_rfl (by omega)).trans (htu.mono (by omega) (by omega))

theorem of_raised (h : Raised s t) : StoresIn a n s t := by
  obtain ⟨e, rfl⟩ := h
  exact of_mem_eq rfl

end StoresIn

/-! ## Lengths of what is stored -/

theorem length_tsHeader (cc : Nat) (pusi : Bool) (pcr : Option Int) (pid : Nat) (disc : Bool) (payload : Nat) :
    (tsHeader cc pusi pcr pid disc payload).length = tsHeaderLength pcr.isSome disc payload := by
  have hfixed (afc : Nat) : fieldsWidth (tsFixedFields cc pusi pid afc) = 32 := rfl
  have hadapt (afl : Nat) (needPcr : Bool) : fieldsWidth (tsAdaptationFields afl disc needPcr) = 16 := rfl
  have hpcr (p : Int) : fieldsWidth (pcrFields p) = 48 := rfl
  unfold tsHeader tsHeaderLength
  dsimp only
  split_ifs with hafc
  · rw [length_packFields, hfixed]
  · simp only [List.length_append, length_packFields, hfixed, hadapt, List.length_replicate, tsAfLength]
    cases pcr with
    | none =>
      rw [List.length_nil, Option.isSome_none, flag, if_neg Bool.false_ne_true]
      omega
    | some p =>
      rw [length_packFields, hpcr, Option.isSome_some, flag, if_pos rfl]
      omega

theorem tsAfc_eq_one_iff (needPcr disc : Bool) (payload : Nat) :
    tsAfc needPcr disc payload = 1 ↔ 184 ≤ payload ∧ needPcr = false ∧ disc = false := by
  unfold tsAfc Config.tsPayloadMax
  split_ifs with hplain hempty
  · exact ⟨fun _ => hplain, fun _ => rfl⟩
  · exact ⟨nofun, fun h => absurd h hplain⟩
  · exact ⟨nofun, fun h => absurd h hplain⟩

/-- A header leaves no room that neither stuffing nor payload fills (42_ts_header.md R135). -/
theorem tsHeaderLength_fills (needPcr disc : Bool) (payload : Nat) :
    tsHeaderLength needPcr disc payload ≤ 188 ∧ 188 ≤ tsHeaderLength needPcr disc payload + payload := by
  have hflag : flag needPcr ≤ 1 := by cases needPcr <;> decide
  unfold tsHeaderLength
  split_ifs with hafc
  · obtain ⟨hfull, _⟩ := (tsAfc_eq_one_iff needPcr disc payload).mp hafc
    omega
  · unfold tsAfLength tsStuffing
    omega

/-- Every packet the packetizer builds has 188 bytes (44_packetizer.md R171). -/
theorem length_tsPacketOf (cc : Nat) (first : Bool) (pcr : Option Int) (pid : Nat) (data : List Byte) :
    (tsPacketOf cc first pcr pid data).length = 188 := by
  obtain ⟨hfits, hfills⟩ := tsHeaderLength_fills pcr.isSome false data.length
  unfold tsPacketOf
  dsimp only
  rw [List.length_append, List.length_take, length_tsHeader]
  omega

theorem length_flatten_packets (n cc : Nat) (first : Bool) (pcr : Option Int) (pid : Nat) (data : List Byte) :
    (packets n cc first pcr pid data).flatten.length = 188 * n := by
  induction n generalizing cc first pcr data with
  | zero => rfl
  | succ n ih => rw [packets, List.flatten_cons, List.length_append, length_tsPacketOf, ih]; ring

theorem length_tablePacket (counter pid : Nat) {body : List Byte} (h : body.length ≤ 179) :
    (tablePacket counter pid body).length = 188 := by
  have hheader : (tsHeader counter true none pid false Config.tsPayloadMax).length = 4 := by
    rw [length_tsHeader]; rfl
  unfold tablePacket
  simp only [List.length_append, List.length_cons, List.length_replicate, length_beBytes, hheader, Config.tsPacket]
  omega

@[simp] theorem length_patPacket (s : State) (counter : Nat) : (patPacket s counter).length = 188 := by
  have hwidth : fieldsWidth (patFields s) = 96 := by simp [patFields, fieldsWidth]
  rw [patPacket, length_tablePacket]
  rw [length_packFields, hwidth]
  decide

@[simp] theorem length_pmtPacket (s : State) (counter : Nat) : (pmtPacket s counter).length = 188 := by
  have hwidth : fieldsWidth (pmtFields s) = 176 := by simp [pmtFields, pmtEntry, fieldsWidth]
  rw [pmtPacket, length_tablePacket]
  rw [length_packFields, hwidth]
  decide

theorem length_pesHeader_eq_pesBytes {s : State} {pts dts : Word64} {p d : Int} (hp : ticks90 s.bias pts = some p)
    (hd : ticks90 s.bias dts = some d) (payload sid : Nat) :
    (pesHeader payload p d sid).length = s.pesBytes pts dts := by
  rw [length_pesHeader, State.pesBytes, hp, hd]

theorem pesTicks_ok {bias pts dts : Word64} {p d : Int} (h : pesTicks bias pts dts = .ok (p, d)) :
    ticks90 bias pts = some p ∧ ticks90 bias dts = some d := by
  obtain ⟨p', hp, h⟩ := Result.bind_eq_ok.mp h
  obtain ⟨d', hd, h⟩ := Result.bind_eq_ok.mp h
  obtain ⟨rfl, rfl⟩ := Prod.mk.inj (Result.ok.inj h)
  exact ⟨Result.ofOption_eq_ok.mp hp, Result.ofOption_eq_ok.mp hd⟩

theorem pcrRequest_isSome {needPcr : Bool} {time : Word64} {pcr : Option Int}
    (h : pcrRequest needPcr time = .ok pcr) : pcr.isSome = needPcr := by
  cases needPcr with
  | false => obtain rfl := Result.ok.inj h; rfl
  | true =>
    obtain ⟨p, _, h⟩ := Result.bind_eq_ok.mp h
    obtain rfl := Result.ok.inj h
    rfl

/-! ## The bit writer -/

/-- The writer's position after an append of at most 32 bits, of which only full words were stored
(40_bitwriter.md R101). -/
theorem bwPut_position {w v : Nat} {s u : State} (hb : s.bw.Ok) (hw : w ≤ 32) (h : bwPut w v s = .ok u) :
    u.bw.base = s.bw.base ∧ u.bw.bound = s.bw.bound ∧
      u.bw.ptr.toNat = s.bw.ptr.toNat + 4 * ((s.bw.accn.toNat + w) / 32) ∧
      u.bw.accn.toNat = (s.bw.accn.toNat + w) % 32 ∧ u.bw.bitcnt.toNat = s.bw.bitcnt.toNat + w := by
  obtain ⟨hcount, _, _, hshort, _⟩ := hb
  have hmax := s.bw.bound.isLt
  rcases bwPut_cases w v s with ⟨_, hput⟩ | ⟨hbound, hpart, hput⟩ | ⟨hbound, hfull, hput⟩ <;> rw [hput] at h
  · cases h
  · obtain rfl := Result.ok.inj h
    refine ⟨rfl, rfl, ?_, ?_, ?_⟩ <;> simp only [BitVec.toNat_ofNat] <;> omega
  · obtain ⟨u', hstore, h⟩ := Result.bind_eq_ok.mp h
    obtain rfl := Result.ok.inj h
    refine ⟨rfl, rfl, ?_, ?_, ?_⟩ <;> simp only [BitVec.toNat_ofNat] <;> omega

theorem WriterStep.writer_ok {s u : State} (h : WriterStep s u) (hb : s.bw.Ok) : u.bw.Ok := by
  obtain ⟨m, b, rfl, _, hok⟩ := h
  exact hok hb

theorem bwPut_storesIn {w v : Nat} {s u : State} (h : bwPut w v s = .ok u) :
    StoresIn (s.bw.base.toNat + s.bw.ptr.toNat) (4 * ((s.bw.accn.toNat + w) / 32)) s u := by
  rcases bwPut_cases w v s with ⟨_, hput⟩ | ⟨_, _, hput⟩ | ⟨_, hfull, hput⟩ <;> rw [hput] at h
  · cases h
  · obtain rfl := Result.ok.inj h
    exact .of_mem_eq rfl
  · obtain ⟨u', hstore, h⟩ := Result.bind_eq_ok.mp h
    obtain rfl := Result.ok.inj h
    have hword := StoresIn.of_store hstore
    rw [length_beBytes] at hword
    exact hword.mono le_rfl (by omega)

/-- A wide field goes in two parts, the second where the first ended (40_bitwriter.md R105). -/
theorem bwPut64_storesIn {w v : Nat} {s u : State} (hb : s.bw.Ok) (hw : w ≤ 64) (h : bwPut64 w v s = .ok u) :
    StoresIn (s.bw.base.toNat + s.bw.ptr.toNat) (4 * ((s.bw.accn.toNat + w) / 32)) s u := by
  unfold bwPut64 at h
  split_ifs at h with hbound hnarrow
  · exact bwPut_storesIn h
  · obtain ⟨u', hhigh, hlow⟩ := Result.bind_eq_ok.mp h
    obtain ⟨hbase, _, hptr, haccn, _⟩ := bwPut_position hb (by omega) hhigh
    have hsecond := bwPut_storesIn hlow
    rw [hbase, hptr, haccn, ← add_assoc] at hsecond
    exact ((bwPut_storesIn hhigh).append hsecond).mono le_rfl (by omega)

theorem bwFlush_storesIn {s u : State} (h : bwFlush s = .ok u) :
    StoresIn (s.bw.base.toNat + s.bw.ptr.toNat) s.bw.pendingBytes s u := by
  obtain ⟨u', hstore, h⟩ := Result.bind_eq_ok.mp h
  obtain rfl := Result.ok.inj h
  have hpending := StoresIn.of_store hstore
  rwa [length_beBytes] at hpending

/-! ## The packetizer and a remux pass -/

theorem packetize_storesIn {t : TrackId} {src size sid pid n : Nat} {pts dts : Word64} {isPcr : Bool} {s u : State}
    (h : packetize t src size pts dts sid pid isPcr s = .ok (u, n)) :
    StoresIn (s.outBase.toNat + s.outWr.toNat) (188 * n) s u ∧
      n = packetCount (s.pesBytes pts dts + size) isPcr ∧
      u.outBase = s.outBase ∧ u.outWr.toNat = s.outWr.toNat + 188 * n := by
  obtain ⟨p, d, pcr, hp, hd, _, _, hn, hcap, hemit⟩ := packetize_ok h
  obtain ⟨u', hstore, hu⟩ := Result.bind_eq_ok.mp hemit
  obtain rfl := Result.ok.inj hu
  have hpackets := StoresIn.of_store hstore
  obtain ⟨_, rfl⟩ := State.store_ok hstore
  rw [length_flatten_packets] at hpackets
  rw [List.length_append, length_pesHeader_eq_pesBytes hp hd, Memory.length_readBytes] at hn
  have hmax := s.outCap.isLt
  refine ⟨?_, hn, State.setTrack_outBase _ _ _, ?_⟩
  · exact hpackets.congr_mem (State.setTrack_mem _ _ _)
  · rw [State.setTrack_outWr, length_packets, BitVec.toNat_ofNat]
    omega

theorem remuxTables_storesIn {s u : State} (h : remuxTables s = .ok u) : StoresIn s.outBase.toNat 376 s u := by
  unfold remuxTables at h
  split_ifs at h
  obtain ⟨s1, hpat, h⟩ := Result.bind_eq_ok.mp h
  obtain ⟨s2, hpmt, h⟩ := Result.bind_eq_ok.mp h
  obtain rfl := Result.ok.inj h
  have hfirst := StoresIn.of_store hpat
  have hsecond := StoresIn.of_store hpmt
  rw [length_patPacket] at hfirst
  rw [length_pmtPacket] at hsecond
  exact hfirst.append hsecond

/-- The output region starts where it did in `s`, and since then only its written part has been stored to. -/
def StoresOutput (s u : State) : Prop :=
  u.outBase = s.outBase ∧ StoresIn s.outBase.toNat u.outWr.toNat s u

theorem mux_storesOutput {t : TrackId} {s u v : State} (hu : StoresOutput s u) (h : mux t u = .ok v) :
    StoresOutput s v := by
  obtain ⟨hbase, hstored⟩ := hu
  obtain ⟨v', n, hpack, rfl⟩ := mux_ok h
  obtain ⟨hpackets, _, hbase', hwr⟩ := packetize_storesIn hpack
  rw [hbase] at hpackets
  refine ⟨?_, ?_⟩
  · rw [State.setTrack_outBase, hbase', hbase]
  · rw [State.setTrack_outWr, hwr]
    exact (hstored.append hpackets).congr_mem (State.setTrack_mem _ _ _)

/-- What the state before TABLES and the state after it have and every mux keeps, whatever the phase, holds where a
pass ends. -/
theorem remuxPass_ends_of_tables {P : State → Prop} (hphase : ∀ u p, P u → P (u.inPhase p))
    (hmux : ∀ t u v, P u → u.avail t = true → mux t u = .ok v → P v) {s : State} (hs : P s.releaseOutput)
    (htables : ∀ u, remuxTables (s.releaseOutput.inPhase .tables) = .ok u → P u) : (remuxPass s).Ends P := by
  refine (Pass.Ends.ofResult (hphase _ .tables hs) htables).andThen fun s1 h1 => ?_
  have hlead := hphase _ .lead h1
  refine (Pass.Ends.ofResult hlead fun u hu => ?_).andThen fun s2 h2 => ?_
  · unfold remuxLead at hu
    split_ifs at hu with havail
    · exact hmux .video _ u hlead havail hu
    · exact Result.ok.inj hu ▸ hlead
  · exact (selectLoop_ends hmux _ (hphase _ .select h2)).andThen fun s3 h3 => hphase _ .done h3

theorem remuxPass_storesOutput (s : State) : (remuxPass s).Ends (StoresOutput s) := by
  refine remuxPass_ends_of_tables (fun _ _ hu => hu) (fun _ _ _ hu _ => mux_storesOutput hu)
    ⟨rfl, .of_mem_eq rfl⟩ fun u hu => ?_
  have hstored := remuxTables_storesIn hu
  obtain ⟨m, _, _, rfl⟩ := remuxTables_step hu
  exact ⟨rfl, hstored⟩

/-! ## The commands -/

section Commands
variable {s t : State}

theorem conclude_store_storesIn {a : Nat} {bs : List Byte} {r0 r1 : Word64}
    (h : conclude s (s.store a bs) (fun u => succeed r0 r1 { u with bwValid := false }) = .next t) :
    StoresIn a bs.length s t := by
  rcases conclude_raised_or_next h with he | ⟨u, hu, h⟩
  · exact .of_raised he
  · obtain rfl := succeed_next h
    exact (StoresIn.of_store hu).congr_mem rfl

theorem execTsHdr_storesIn {pusi needPcr disc : Bool} {dst cc pid pcrTime payloadSize : Word64}
    (h : execTsHdr pusi needPcr disc dst cc pid pcrTime payloadSize s = .next t) :
    StoresIn dst.toNat (tsHeaderLength needPcr disc payloadSize.toNat) s t := by
  rcases gate_next h with he | ⟨_, h⟩
  · exact .of_raised he
  rcases conclude_raised_or_next h with he | ⟨pcr, hpcr, h⟩
  · exact .of_raised he
  have hheader := conclude_store_storesIn (refusal_next h).2
  rwa [length_tsHeader, pcrRequest_isSome hpcr] at hheader

theorem execPesHdr_storesIn {streamId : BitVec 8} {dst bound payloadSize pts dts : Word64}
    (h : execPesHdr streamId dst bound payloadSize pts dts s = .next t) :
    StoresIn dst.toNat (s.pesBytes pts dts) s t := by
  rcases gate_next h with he | ⟨_, h⟩
  · exact .of_raised he
  rcases conclude_raised_or_next h with he | ⟨⟨p, d⟩, hticks, h⟩
  · exact .of_raised he
  rcases gate_next h with he | ⟨_, h⟩
  · exact .of_raised he
  obtain ⟨hp, hd⟩ := pesTicks_ok hticks
  have hheader := conclude_store_storesIn (refusal_next h).2
  rwa [length_pesHeader_eq_pesBytes hp hd] at hheader

theorem writeTable_storesIn {dst : Word64} {packet : List Byte} (h : writeTable dst packet s = .next t) :
    StoresIn dst.toNat packet.length s t := by
  rcases gate_next h with he | ⟨_, h⟩
  · exact .of_raised he
  · exact conclude_store_storesIn (refusal_next h).2

theorem appendCommand_storesIn {t0 : TrackId} {src size pts dts : Word64} {key : Bool} {finish : State → State}
    (hfinish : ∀ u : State, (finish u).mem = u.mem) (h : appendCommand t0 src size pts dts key finish s = .next t) :
    StoresIn ((s.track t0).tbufBase.toNat + (s.track t0).wrCur.toNat) size.toNat s t := by
  rcases conclude_raised_or_next h with he | ⟨u, hu, h⟩
  · exact .of_raised he
  obtain rfl := succeed_next (refusal_next h).2
  obtain ⟨_, _, _, _, hm, rfl⟩ := appendFrame_ok hu
  refine ⟨fun hwf => ?_, fun x hx => ?_⟩ <;> rw [State.complete_mem, hfinish, State.setTrack_mem]
  · exact Memory.wf_writeBytes hwf (by rwa [Memory.length_readBytes])
  · exact Memory.read_writeBytes_outside s.mem (by rwa [Memory.length_readBytes])

theorem execAppend_storesIn {track key : Bool} {src size pts dts : Word64}
    (h : execAppend track key src size pts dts s = .next t) :
    StoresIn ((s.track (.ofBit track)).tbufBase.toNat + (s.track (.ofBit track)).wrCur.toNat) size.toNat s t := by
  rcases gate_next h with he | ⟨_, h⟩
  · exact .of_raised he
  rcases gate_next h with he | ⟨_, h⟩
  · exact .of_raised he
  · exact appendCommand_storesIn (fun _ => rfl) h

theorem acceptFrame_storesIn {t0 : TrackId} {key : Bool} {src size encStatus : Word64}
    (h : acceptFrame t0 key src size encStatus s = .next t) :
    StoresIn ((s.track t0).tbufBase.toNat + (s.track t0).wrCur.toNat) size.toNat s t := by
  rcases gate_next h with he | ⟨_, h⟩
  · exact .of_raised he
  rcases gate_next h with he | ⟨_, h⟩
  · exact .of_raised he
  rcases gate_next h with he | ⟨_, h⟩
  · exact .of_raised he
  · exact appendCommand_storesIn (fun u => State.setTrack_mem u t0 _) h

theorem State.writeReg_mem (s : State) (v : Word64) (reg : Reg) : (s.writeReg v reg).mem = s.mem := by
  rcases reg with g | ⟨t, k⟩
  · cases g <;> rfl
  · exact State.setTrack_mem s t _

theorem execRemux_storesIn (h : execRemux s = .next t) :
    StoresIn (footprint s .remux).1 (footprint s .remux).2 s t := by
  rcases execRemux_next h with he | ⟨hgate, hpass⟩
  · exact .of_raised he
  have hends := remuxPass_storesOutput s
  simp only [footprint, if_pos hgate]
  rcases hpass with ⟨u, hdone, rfl⟩ | ⟨e, u, hfailed, rfl⟩
  · rw [hdone] at hends ⊢
    exact hends.2
  · rw [hfailed] at hends ⊢
    exact hends.2

end Commands

/-- Every command stores inside the region listed for it; only the two parts of a `PUT_BITS64` need a good writer to
lie behind one another. -/
theorem exec_storesIn {i : Instr} {s t : State}
    (hwriter : ∀ width value, i = .putBits64 width value → s.bwValid = true → s.bw.Ok)
    (h : exec i s = .next t) : StoresIn (footprint s i).1 (footprint s i).2 s t := by
  cases i with
  | bwInit =>
    rcases execBwInit_next h with he | ⟨_, rfl⟩
    · exact .of_raised he
    · exact .of_mem_eq rfl
  | putBits =>
    rcases execPutBits_next h with he | ⟨_, _, u, hu, rfl⟩
    · exact .of_raised he
    · exact (bwPut_storesIn hu).congr_mem rfl
  | putBits64 =>
    rcases execPutBits64_next h with he | ⟨hvalid, hw, u, hu, rfl⟩
    · exact .of_raised he
    · exact (bwPut64_storesIn (hwriter _ _ rfl hvalid) hw hu).congr_mem rfl
  | bwFlush =>
    rcases execBwFlush_next h with he | ⟨_, u, hu, rfl⟩
    · exact .of_raised he
    · exact (bwFlush_storesIn hu).congr_mem rfl
  | bwCount =>
    rcases execBwCount_next h with he | rfl
    · exact .of_raised he
    · exact .of_mem_eq rfl
  | wrreg reg value =>
    rcases execWrreg_next h with he | ⟨_, _, rfl⟩
    · exact .of_raised he
    · exact .of_mem_eq (s.writeReg_mem value reg)
  | rdreg =>
    obtain rfl := succeed_next h
    exact .of_mem_eq rfl
  | crc32 =>
    rcases execCrc32_next h with he | ⟨_, rfl⟩
    · exact .of_raised he
    · exact .of_mem_eq rfl
  | tsHdr => exact execTsHdr_storesIn h
  | pesHdr => exact execPesHdr_storesIn h
  | pack =>
    rcases execPack_next h with he | ⟨_, u, n, r1, hpack, rfl⟩
    · exact .of_raised he
    · obtain ⟨hpackets, rfl, _⟩ := packetize_storesIn hpack
      exact hpackets
  | pat =>
    have hpacket := writeTable_storesIn h
    rwa [length_patPacket] at hpacket
  | pmt =>
    have hpacket := writeTable_storesIn h
    rwa [length_pmtPacket] at hpacket
  | remux => exact execRemux_storesIn h
  | init =>
    rcases execInit_next h with he | ⟨_, _, _, rfl⟩
    · exact .of_raised he
    · exact .of_mem_eq rfl
  | append => exact execAppend_storesIn h
  | acceptV => exact acceptFrame_storesIn h
  | acceptA => exact acceptFrame_storesIn h
  | reset =>
    rcases execReset_next h with he | ⟨_, rfl⟩
    · exact .of_raised he
    · exact .of_mem_eq rfl
  | teardown =>
    obtain rfl := succeed_next h
    exact .of_mem_eq rfl

/-! ## The canonical form -/

theorem WriterStep.mem_wf {s u : State} (h : WriterStep s u) (hm : s.mem.wf = true) : u.mem.wf = true := by
  obtain ⟨m, b, rfl, hwf, _⟩ := h
  exact hwf hm

/-- Every command keeps the memory canonical; a `PUT_BITS64` does so wherever its two parts lie. -/
theorem exec_keeps_mem_wf {i : Instr} {s t : State} (hm : s.mem.wf = true) (h : exec i s = .next t) :
    t.mem.wf = true := by
  by_cases hwide : ∃ width value, i = .putBits64 width value
  · obtain ⟨width, value, rfl⟩ := hwide
    rcases execPutBits64_next h with ⟨e, rfl⟩ | ⟨_, hw, u, hu, rfl⟩
    · exact hm
    · exact (bwPut64_step hw hu).mem_wf hm
  · exact (exec_storesIn (fun width value hi => absurd ⟨width, value, hi⟩ hwide) h).1 hm

/-- Settles O55: a step takes words from the port, which leaves `M` alone, and runs a command. -/
theorem stepKeepsMemoryCanonical : Obligations.StepKeepsMemoryCanonical := by
  intro s t hm h
  rcases step_cases s with ⟨_, hstep⟩ | ⟨_, hstep⟩ | ⟨_, hstep⟩ | ⟨_, rest, _, hstep⟩ | ⟨i, rest, _, hstep⟩ <;>
    rw [hstep] at h
  · exact Host.Outcome.next.inj h ▸ hm
  · exact Host.Outcome.next.inj h ▸ hm
  · cases h
  · exact Host.Outcome.next.inj h ▸ hm
  · exact exec_keeps_mem_wf (s := s.setPort rest) hm h

/-! ## The listed region -/

/-- A `REMUX` that succeeds has passed its gate, and its pass has ended where it leaves `OUT_WR`. -/
theorem execRemux_written {s t : State} (h : execRemux s = .next t) (hok : t.err = .ok) :
    (footprint s .remux).2 = t.outWr.toNat := by
  unfold execRemux at h
  split_ifs at h with hgate
  · obtain rfl := raise_next h
    cases hok
  have hopen : s.remuxGate = true := by simpa using hgate
  simp only [footprint, if_pos hopen]
  cases hpass : remuxPass s with
  | done u =>
    rw [hpass] at h
    obtain rfl := succeed_next h
    rfl
  | failed e u =>
    rw [hpass] at h
    obtain rfl := raise_next h
    obtain rfl : e = .ok := hok
    exact absurd hpass (remuxPass_properError s u)
  | fault f =>
    rw [hpass] at h
    cases h

/-- Settles O59: `exec_storesIn` with the good state's writer, and `execRemux_written`. -/
theorem writesStayInTheListedRegion : Obligations.WritesStayInTheListedRegion := by
  intro i s t hs h
  refine ⟨(exec_storesIn (fun _ _ _ => hs.writer) h).2, ?_⟩
  rintro rfl hok
  exact execRemux_written h hok

end Sys2Proof.Machine
end

section

/-! The overlaps whose results the spec leaves unspecified (20_memory.md R64, 93_implementation_defined.md U6): where
none of a command's errors applies its work gives a value, and so the command comes to the refusal. -/

namespace Sys2Proof.Machine

/-! ## Work that succeeds -/

theorem State.load_of_le (s : State) {a n : Nat} (h : a + n ≤ Config.memSize) :
    s.load a n = .ok (s.mem.readBytes a n) := if_pos (decide_eq_true h)

theorem State.store_of_le (s : State) {a : Nat} {bs : List Byte} (h : a + bs.length ≤ Config.memSize) :
    s.store a bs = .ok { s with mem := s.mem.writeBytes a bs } := if_pos (decide_eq_true h)

/-- An append inside the bound commits its word inside the region, which lies in `M` (40_bitwriter.md R101). -/
theorem bwPut_succeeds {w v : Nat} {s : State} (hb : s.bw.Ok)
    (hbound : s.bw.bitcnt.toNat + w ≤ 8 * s.bw.bound.toNat) : ∃ u, bwPut w v s = .ok u := by
  obtain ⟨hcount, _, _, _, hregion⟩ := hb
  rcases bwPut_cases w v s with ⟨hover, _⟩ | ⟨_, _, hput⟩ | ⟨_, hfull, hput⟩
  · omega
  · exact ⟨_, hput⟩
  · rw [hput, State.store_of_le s (by rw [length_beBytes]; omega)]
    exact ⟨_, rfl⟩

theorem bwPut64_succeeds {w v : Nat} {s : State} (hb : s.bw.Ok) (hw : w ≤ 64)
    (hbound : s.bw.bitcnt.toNat + w ≤ 8 * s.bw.bound.toNat) : ∃ u, bwPut64 w v s = .ok u := by
  rw [bwPut64, if_neg (by omega)]
  split_ifs with hnarrow
  · exact bwPut_succeeds hb hbound
  · obtain ⟨u, hu⟩ := bwPut_succeeds (w := w - 32) (v := v / 2 ^ 32) hb (by omega)
    obtain ⟨_, hubound, _, _, hbitcnt⟩ := bwPut_position hb (by omega) hu
    rw [hu, Result.bind_ok]
    exact bwPut_succeeds ((bwPut_step (by omega) hu).writer_ok hb) (by rw [hbitcnt, hubound]; omega)

theorem bwFlush_succeeds {s : State} (hb : s.bw.Ok) : ∃ u, bwFlush s = .ok u := by
  obtain ⟨hcount, _, hbounded, _, hregion⟩ := hb
  have hroom : s.bw.base.toNat + s.bw.ptr.toNat + s.bw.pendingBytes ≤ Config.memSize := by
    unfold BitWriter.pendingBytes; omega
  rw [bwFlush, State.store_of_le s (by rwa [length_beBytes])]
  exact ⟨_, rfl⟩

theorem pcrRequest_succeeds {needPcr : Bool} {time : Word64}
    (h : needPcr = true → (ticks27M time).isSome = true) : ∃ pcr, pcrRequest needPcr time = .ok pcr := by
  cases needPcr with
  | false => exact ⟨none, rfl⟩
  | true =>
    obtain ⟨p, hp⟩ := Option.isSome_iff_exists.mp (h rfl)
    exact ⟨some p, by simp [pcrRequest, hp]⟩

theorem pesTicks_of_some {bias pts dts : Word64} {p d : Int} (hp : ticks90 bias pts = some p)
    (hd : ticks90 bias dts = some d) : pesTicks bias pts dts = .ok (p, d) := by simp [pesTicks, hp, hd]

/-- Packets that fit the output region are emitted, the region lying in `M`. -/
theorem emitPackets_succeeds {t : TrackId} {n cc pid : Nat} {first : Bool} {pcr : Option Int} {data : List Byte}
    {s : State} (hcap : s.outWr.toNat + 188 * n ≤ s.outCap.toNat)
    (hregion : s.outBase.toNat + s.outCap.toNat ≤ Config.memSize) :
    ∃ u, s.emitPackets t (packets n cc first pcr pid data) = .ok u := by
  rw [State.emitPackets, State.store_of_le s (by rw [length_flatten_packets]; omega)]
  exact ⟨_, rfl⟩

theorem packetize_succeeds {t : TrackId} {src size sid pid : Nat} {pts dts : Word64} {isPcr : Bool} {s : State}
    {p d : Int} (hp : ticks90 s.bias pts = some p) (hd : ticks90 s.bias dts = some d)
    (hpcr : isPcr = true → (ticks27M dts).isSome = true) (hsrc : src + size ≤ Config.memSize)
    (hcap : s.outWr.toNat +
      188 * packetCount (pesHeader size p d sid ++ s.mem.readBytes src size).length isPcr ≤ s.outCap.toNat)
    (hregion : s.outBase.toNat + s.outCap.toNat ≤ Config.memSize) :
    ∃ u, packetize t src size pts dts sid pid isPcr s =
      .ok (u, packetCount (pesHeader size p d sid ++ s.mem.readBytes src size).length isPcr) := by
  obtain ⟨pcr, hrequest⟩ := pcrRequest_succeeds hpcr
  obtain ⟨u, hu⟩ := emitPackets_succeeds (t := t) (cc := (s.track t).cc.toNat) (pid := pid) (first := true)
    (pcr := pcr) (data := pesHeader size p d sid ++ s.mem.readBytes src size) hcap hregion
  refine ⟨u, ?_⟩
  simp only [packetize, pesTicks_of_some hp hd, hrequest, State.load_of_le s hsrc, Result.bind_ok,
    if_neg (not_lt.mpr hcap), hu]

theorem appendFrame_succeeds {t : TrackId} {src size pts dts : Word64} {key : Bool} {s : State}
    (hpts : finite pts = true) (hdts : finite dts = true) (hroom : (s.track t).nFrames.toNat < Config.maxFrames)
    (hcap : (s.track t).wrCur.toNat + size.toNat ≤ (s.track t).tbufCap.toNat)
    (hsrc : src.toNat + size.toNat ≤ Config.memSize)
    (hregion : (s.track t).tbufBase.toNat + (s.track t).tbufCap.toNat ≤ Config.memSize) :
    ∃ u, appendFrame t src size pts dts key s = .ok u := by
  have hdst : (s.track t).tbufBase.toNat + (s.track t).wrCur.toNat +
      (s.mem.readBytes src.toNat size.toNat).length ≤ Config.memSize := by
    rw [Memory.length_readBytes]; omega
  simp only [appendFrame, hpts, hdts, Bool.and_self, Bool.not_true, Bool.false_eq_true, if_false,
    if_neg (not_le.mpr hroom), if_neg (not_lt.mpr hcap), State.load_of_le s hsrc, State.store_of_le s hdst,
    Result.bind_ok]
  exact ⟨_, rfl⟩

/-! ## The commands -/

section Commands
variable {s : State}

theorem execBwInit_refused {base bound : Word64} (hregion : regionOk base bound = true)
    (htouch : s.touchesSession base.toNat bound.toNat = true) :
    execBwInit base bound s = .refused .regionOverlap := by
  simp [execBwInit, hregion, htouch]

section Writer
variable (hvalid : s.bwValid = true) (hb : s.bw.Ok) (htouch : s.writerTouchesSession = true)
include hvalid hb htouch

theorem execPutBits_refused {width : BitVec 8} {value : Word64} (hw : width.toNat ≤ 32)
    (hbound : s.bw.bitcnt.toNat + width.toNat ≤ 8 * s.bw.bound.toNat) :
    execPutBits width value s = .refused .regionOverlap := by
  obtain ⟨u, hu⟩ := bwPut_succeeds (v := value.toNat) hb hbound
  simp [execPutBits, hvalid, not_lt.mpr hw, hu, htouch]

theorem execPutBits64_refused {width : BitVec 8} {value : Word64} (hw : width.toNat ≤ 64)
    (hbound : s.bw.bitcnt.toNat + width.toNat ≤ 8 * s.bw.bound.toNat) :
    execPutBits64 width value s = .refused .regionOverlap := by
  obtain ⟨u, hu⟩ := bwPut64_succeeds (v := value.toNat) hb hw hbound
  simp [execPutBits64, hvalid, not_lt.mpr hw, hu, htouch]

theorem execBwFlush_refused : execBwFlush s = .refused .regionOverlap := by
  obtain ⟨u, hu⟩ := bwFlush_succeeds hb
  simp [execBwFlush, hvalid, hu, htouch]

end Writer

section Packet
variable {dst : Word64} (hroom : packetRoomOk dst = true) (htouch : s.touchesSession dst.toNat 188 = true)
include hroom htouch

theorem writeTable_refused (packet : List Byte) : writeTable dst packet s = .refused .regionOverlap := by
  simp [writeTable, hroom, htouch, Config.tsPacket]

theorem execTsHdr_refused {pusi needPcr disc : Bool} {cc pid pcrTime payloadSize : Word64}
    (hsize : fits32 payloadSize = true) (hpcr : needPcr = true → (ticks27M pcrTime).isSome = true) :
    execTsHdr pusi needPcr disc dst cc pid pcrTime payloadSize s = .refused .regionOverlap := by
  obtain ⟨pcr, hrequest⟩ := pcrRequest_succeeds hpcr
  simp [execTsHdr, hroom, hsize, hrequest, htouch, Config.tsPacket]

end Packet

theorem execPesHdr_refused {streamId : BitVec 8} {dst bound payloadSize pts dts : Word64} {p d : Int}
    (hregion : regionOk dst bound = true) (hsize : fits32 payloadSize = true) (hpts : finite pts = true)
    (hdts : finite dts = true) (hp : ticks90 s.bias pts = some p) (hd : ticks90 s.bias dts = some d)
    (hfits : (pesHeader payloadSize.toNat p d streamId.toNat).length ≤ bound.toNat)
    (htouch : s.touchesSession dst.toNat bound.toNat = true) :
    execPesHdr streamId dst bound payloadSize pts dts s = .refused .regionOverlap := by
  simp [execPesHdr, hregion, hsize, hpts, hdts, pesTicks_of_some hp hd, not_lt.mpr hfits, htouch]

theorem execPack_refused {pcr track : Bool} {src size pts dts streamId pid : Word64} {p d : Int}
    (hready : s.session = .ready) (hregion : regionOk src size = true) (hpts : finite pts = true)
    (hdts : finite dts = true) (hp : ticks90 s.bias pts = some p) (hd : ticks90 s.bias dts = some d)
    (hpcr : pcr = true → (ticks27M dts).isSome = true)
    (hcap : s.outWr.toNat + 188 * packetCount (pesHeader size.toNat p d (lowBits 8 streamId) ++
      s.mem.readBytes src.toNat size.toNat).length pcr ≤ s.outCap.toNat)
    (hout : s.outBase.toNat + s.outCap.toNat ≤ Config.memSize)
    (hoverlap : packOverlap src.toNat size.toNat (packetCount (pesHeader size.toNat p d (lowBits 8 streamId) ++
      s.mem.readBytes src.toNat size.toNat).length pcr) s = true) :
    execPack pcr track src size pts dts streamId pid s = .refused .regionOverlap := by
  obtain ⟨_, _, hsrc⟩ := (regionOk_iff src size).mp hregion
  obtain ⟨u, hu⟩ := packetize_succeeds (t := .ofBit track) (pid := lowBits 13 pid) hp hd hpcr hsrc hcap hout
  rw [execPack, if_neg (not_not.mpr hready), if_neg (by simp [hregion, hpts, hdts]), hu, conclude_ok,
    if_pos hoverlap]

/-- A frame that its track has room for, its source over the bytes where it would go. -/
structure AppendOverlaps (s : State) (t : TrackId) (src size : Word64) : Prop where
  ready : s.session = .ready
  source : regionOk src size = true
  room : (s.track t).nFrames.toNat < Config.maxFrames
  fits : (s.track t).wrCur.toNat + size.toNat ≤ (s.track t).tbufCap.toNat
  region : (s.track t).tbufBase.toNat + (s.track t).tbufCap.toNat ≤ Config.memSize
  overlap : appendOverlap t src size s = true

section Append
variable {t : TrackId} {src size : Word64} (h : AppendOverlaps s t src size)
include h

theorem appendCommand_refused {pts dts : Word64} {key : Bool} {finish : State → State} (hpts : finite pts = true)
    (hdts : finite dts = true) : appendCommand t src size pts dts key finish s = .refused .regionOverlap := by
  obtain ⟨_, _, hsrc⟩ := (regionOk_iff src size).mp h.source
  obtain ⟨u, hu⟩ := appendFrame_succeeds (key := key) hpts hdts h.room h.fits hsrc h.region
  rw [appendCommand, hu, conclude_ok, if_pos h.overlap]

theorem execAppend_refused {track key : Bool} {pts dts : Word64} (ht : t = .ofBit track) (hpts : finite pts = true)
    (hdts : finite dts = true) : execAppend track key src size pts dts s = .refused .regionOverlap := by
  subst ht
  rw [execAppend, if_neg (not_not.mpr h.ready), if_neg (by simp [h.source])]
  exact appendCommand_refused h hpts hdts

theorem acceptFrame_refused {key : Bool} (hnext : finite (s.track t).tsNext = true) :
    acceptFrame t key src size 0#64 s = .refused .regionOverlap := by
  rw [acceptFrame, if_neg (not_not.mpr h.ready), if_neg (by simp [h.source]), if_neg (not_not.mpr rfl)]
  exact appendCommand_refused h hnext hnext

end Append

end Commands

/-- Settles O54: one lemma for each command. -/
theorem unspecifiedOverlapsAreRefused : Obligations.UnspecifiedOverlapsAreRefused := by
  refine ⟨?bwInit, ?putBits, ?bwFlush, ?packet, ?pesHdr, ?pack, ?append⟩
  case bwInit =>
    intro base bound s hbase hbound hregion htouch
    exact execBwInit_refused ((regionOk_iff base bound).mpr ⟨hbase, hbound, hregion⟩) htouch
  case putBits =>
    intro width value s hvalid hb hbound htouch
    exact ⟨fun hw => execPutBits_refused hvalid hb htouch hw hbound,
      fun hw => execPutBits64_refused hvalid hb htouch hw hbound⟩
  case bwFlush =>
    intro s hvalid hb htouch
    exact execBwFlush_refused hvalid hb htouch
  case packet =>
    intro dst counter s hdst htouch
    have hroom : packetRoomOk dst = true := (packetRoomOk_iff dst).mpr ⟨by omega, hdst⟩
    exact ⟨writeTable_refused hroom htouch _, writeTable_refused hroom htouch _,
      fun _ _ _ _ _ _ _ hsize hpcr => execTsHdr_refused hroom htouch (decide_eq_true hsize) hpcr⟩
  case pesHdr =>
    intro sid dst bound payload pts dts s p d hdst hbound hsize hregion hpts hdts hp hd hfits htouch
    exact execPesHdr_refused ((regionOk_iff dst bound).mpr ⟨hdst, hbound, hregion⟩) (decide_eq_true hsize) hpts hdts
      hp hd hfits htouch
  case pack =>
    intro pcr track src size pts dts sid pid s p d hready hsrc hsize hregion hpts hdts hp hd hpcr data n hcap hout
      hoverlap
    exact execPack_refused hready ((regionOk_iff src size).mpr ⟨hsrc, hsize, hregion⟩) hpts hdts hp hd hpcr hcap hout
      hoverlap
  case append =>
    intro t0 src size s hready hsrc hsize hregion tr hroom hfits hbuffer hnext hoverlap
    have h : AppendOverlaps s t0 src size :=
      ⟨hready, (regionOk_iff src size).mpr ⟨hsrc, hsize, hregion⟩, hroom, hfits, hbuffer, hoverlap⟩
    refine ⟨fun _ _ _ _ ht hpts hdts => execAppend_refused h ht hpts hdts, ?_, ?_⟩
    · rintro rfl key
      exact acceptFrame_refused h hnext
    · rintro rfl
      exact acceptFrame_refused h hnext

end Sys2Proof.Machine
end

section

/-! The fields of a header word and what each row of the opcode map makes of `F` (30_encoding.md R81, R84): flag
bits, a register index, or a whole byte. -/

namespace Sys2Proof

open Machine

/-! ## Header words and their fields (R81) -/

/-- With `RSV = 0` a header is its `F` and its `OPC`, so no bit of it is lost between the two fields. -/
theorem headerWord_fields {h : Word32} (hrsv : headerRsv h = 0#16) : headerWord (headerOpc h) (headerF h) = h := by
  calc headerWord (headerOpc h) (headerF h)
      = headerRsv h ++ headerF h ++ headerOpc h := by rw [hrsv]; rfl
    _ = h := by
      ext i hi
      simp only [headerRsv, headerF, headerOpc, BitVec.getElem_append, BitVec.getElem_extractLsb']
      grind

theorem headerOpc_toNat (h : Word32) : (headerOpc h).toNat = h.toNat % 256 := by
  simp [headerOpc, BitVec.extractLsb'_toNat]

theorem headerF_toNat (h : Word32) : (headerF h).toNat = h.toNat / 256 % 256 := by
  simp [headerF, BitVec.extractLsb'_toNat, Nat.shiftRight_eq_div_pow]

theorem headerRsv_eq_zero_iff (h : Word32) : headerRsv h = 0#16 ↔ h.toNat / 65536 = 0 := by
  have hlt := h.isLt
  rw [← BitVec.toNat_inj]
  simp [headerRsv, BitVec.extractLsb'_toNat, Nat.shiftRight_eq_div_pow]
  omega

/-! ## The bits of `F` -/

theorem flagBits_of_lowThree {f : BitVec 8} (hf : f &&& ~~~0x07#8 = 0#8) :
    flagBits (f.getLsbD 0) (f.getLsbD 1) (f.getLsbD 2) = f := by revert f; decide

theorem flagBits_of_lowTwo {f : BitVec 8} (hf : f &&& ~~~0x03#8 = 0#8) :
    flagBits (f.getLsbD 0) (f.getLsbD 1) false = f := by revert f; decide

theorem flagBits_of_bitOne {f : BitVec 8} (hf : f &&& ~~~0x02#8 = 0#8) :
    flagBits false (f.getLsbD 1) false = f := by revert f; decide

theorem noFlags_iff (f : BitVec 8) : f &&& ~~~0x00#8 = 0#8 ↔ f = 0#8 := by
  rw [show ~~~0x00#8 = BitVec.allOnes 8 from rfl, BitVec.and_allOnes]

theorem lowThree_iff (f : BitVec 8) : f &&& ~~~0x07#8 = 0#8 ↔ f.toNat / 8 = 0 := by revert f; decide

theorem lowTwo_iff (f : BitVec 8) : f &&& ~~~0x03#8 = 0#8 ↔ f.toNat / 4 = 0 := by revert f; decide

theorem bitOne_iff (f : BitVec 8) : f &&& ~~~0x02#8 = 0#8 ↔ f.toNat / 4 = 0 ∧ f.toNat % 2 = 0 := by
  revert f; decide

/-! ## `F` as a register index (10_state.md R24) -/

theorem Reg.ofIndex_eq_none_iff (f : BitVec 8) : Reg.ofIndex f = none ↔ reservedIndex f.toNat := by
  unfold reservedIndex
  revert f; decide

theorem Reg.exists_index_iff (f : BitVec 8) : (∃ r : Reg, r.index = f) ↔ ¬ reservedIndex f.toNat := by
  rw [← Reg.ofIndex_eq_none_iff, ← ne_eq, Option.ne_none_iff_exists']
  exact exists_congr fun r => ⟨fun h => h ▸ Reg.ofIndex_index r, Reg.index_ofIndex⟩

theorem Reg.access_eq_ro_iff (r : Reg) : r.access = .ro ↔ r.index.toNat ∈ readOnlyIndices := by
  rcases r with g | ⟨t, k⟩
  · cases g <;> decide
  · cases t <;> cases k <;> decide

/-! ## What a row of the opcode map answers -/

theorem withFlags_eq_ok_iff {f used : BitVec 8} {row hd : Header} :
    withFlags f used row = .ok hd ↔ f &&& ~~~used = 0#8 ∧ row = hd := by
  unfold withFlags
  split <;> simp [*]

theorem readableHeader_eq_ok_iff {f : BitVec 8} {hd : Header} :
    readableHeader f = .ok hd ↔ ∃ r : Reg, r.index = f ∧ .rdreg r = hd := by
  unfold readableHeader
  constructor
  · intro h
    split at h
    next => cases h
    next r hr => exact ⟨r, Reg.index_ofIndex hr, Except.ok.inj h⟩
  · rintro ⟨r, rfl, rfl⟩
    rw [Reg.ofIndex_index]

theorem writableHeader_eq_ok_iff {f : BitVec 8} {hd : Header} :
    writableHeader f = .ok hd ↔ ∃ r : Reg, r.index = f ∧ r.access ≠ .ro ∧ .wrreg r = hd := by
  unfold writableHeader
  constructor
  · intro h
    split at h
    next => cases h
    next r hr =>
      split at h
      next => cases h
      next hw => exact ⟨r, Reg.index_ofIndex hr, hw, Except.ok.inj h⟩
  · rintro ⟨r, rfl, hw, rfl⟩
    simp only [Reg.ofIndex_index, if_neg hw]

end Sys2Proof
end

section

/-! Decoding and encoding are inverse to each other (30_encoding.md R80 to R86): the header word has one row of the
opcode map, and the operand words are taken in packet order. -/

namespace Sys2Proof

open Machine

/-! ## A command is its header and its operand words -/

/-- The header of a command: the command without its operand words. -/
def Instr.header : Instr → Header
  | .bwInit _ _ => .bwInit
  | .putBits width _ => .putBits width
  | .putBits64 width _ => .putBits64 width
  | .bwFlush => .bwFlush
  | .bwCount => .bwCount
  | .wrreg reg _ => .wrreg reg
  | .rdreg reg => .rdreg reg
  | .crc32 _ _ _ => .crc32
  | .tsHdr pusi needPcr disc _ _ _ _ _ => .tsHdr pusi needPcr disc
  | .pesHdr sid _ _ _ _ _ => .pesHdr sid
  | .pack pcr track _ _ _ _ _ _ => .pack pcr track
  | .pat _ _ => .pat
  | .pmt _ _ => .pmt
  | .remux => .remux
  | .init _ _ _ => .init
  | .append track key _ _ _ _ => .append track key
  | .acceptV key _ _ _ => .acceptV key
  | .acceptA _ _ _ => .acceptA
  | .reset => .reset
  | .teardown => .teardown

theorem Instr.exists_header (i : Instr) :
    ∃ (hd : Header) (ops : List Word64), ops.length = hd.operandCount ∧ i = hd.instr ops :=
  ⟨i.header, i.operands, by cases i <;> rfl, by cases i <;> rfl⟩

theorem Header.operands_instr_eq_map (hd : Header) (ws : List Word64) :
    (hd.instr ws).operands = (List.range hd.operandCount).map fun j => ws.getD j 0#64 := by cases hd <;> rfl

/-- A command keeps the operand words it is built from, when they are as many as its header asks for. -/
theorem Header.operands_instr {hd : Header} {ws : List Word64} (h : ws.length = hd.operandCount) :
    (hd.instr ws).operands = ws := by
  rw [Header.operands_instr_eq_map, ← h]
  exact List.ext_getElem (by simp) fun j _ hj => by simp [hj]

/-! ## The row of a header: its `OPC`, its `F`, and whether R85 allows it -/

/-- `OPC` of a header's commands. -/
def Header.opcode (hd : Header) : BitVec 8 := (hd.instr []).opcode

/-- `F` of a header's commands. -/
def Header.fField (hd : Header) : BitVec 8 := (hd.instr []).fField

/-- The commands of a header are well formed. -/
def Header.legal (hd : Header) : Bool := (hd.instr []).wellFormed

@[simp] theorem Header.opcode_instr (hd : Header) (ws : List Word64) : (hd.instr ws).opcode = hd.opcode := by
  cases hd <;> rfl

@[simp] theorem Header.fField_instr (hd : Header) (ws : List Word64) : (hd.instr ws).fField = hd.fField := by
  cases hd <;> rfl

@[simp] theorem Header.wellFormed_instr (hd : Header) (ws : List Word64) :
    (hd.instr ws).wellFormed = hd.legal := by cases hd <;> rfl

theorem encode_instr {hd : Header} {ws : List Word64} (h : ws.length = hd.operandCount) :
    encode (hd.instr ws) = .header (headerWord hd.opcode hd.fField) :: ws.map .operand := by
  rw [encode, Header.operands_instr h, Header.opcode_instr, Header.fField_instr]

/-! ## Headers -/

theorem decodeOpcode_of_legal {hd : Header} (h : hd.legal = true) : decodeOpcode hd.opcode hd.fField = .ok hd := by
  cases hd with
  | wrreg reg => exact writableHeader_eq_ok_iff.mpr ⟨reg, rfl, of_decide_eq_true h, rfl⟩
  | rdreg reg => exact readableHeader_eq_ok_iff.mpr ⟨reg, rfl, rfl⟩
  | tsHdr pusi needPcr disc => cases pusi <;> cases needPcr <;> cases disc <;> rfl
  | pack pcr track => cases pcr <;> cases track <;> rfl
  | append track key => cases track <;> cases key <;> rfl
  | acceptV key => cases key <;> rfl
  | _ => rfl

/-- A row of the opcode map belongs to one opcode, and accounts for every bit of `F`. -/
theorem fields_of_decodeOpcode {opc f : BitVec 8} {hd : Header} (h : decodeOpcode opc f = .ok hd) :
    hd.opcode = opc ∧ hd.fField = f ∧ hd.legal = true := by
  revert h
  fun_cases decodeOpcode opc f <;> intro h <;> subst_vars
  -- the rows whose `F` may be any byte
  case case2 | case3 | case10 =>
    cases h
    exact ⟨rfl, rfl, rfl⟩
  -- `WRREG` and `RDREG`
  case case6 =>
    obtain ⟨reg, rfl, hw, rfl⟩ := writableHeader_eq_ok_iff.mp h
    exact ⟨rfl, rfl, decide_eq_true hw⟩
  case case7 =>
    obtain ⟨reg, rfl, rfl⟩ := readableHeader_eq_ok_iff.mp h
    exact ⟨rfl, rfl, rfl⟩
  -- `TS_HDR`; `PACK` and `APPEND`; `ACCEPT_V`
  case case9 =>
    obtain ⟨hf, rfl⟩ := withFlags_eq_ok_iff.mp h
    exact ⟨rfl, flagBits_of_lowThree hf, rfl⟩
  case case11 | case16 =>
    obtain ⟨hf, rfl⟩ := withFlags_eq_ok_iff.mp h
    exact ⟨rfl, flagBits_of_lowTwo hf, rfl⟩
  case case17 =>
    obtain ⟨hf, rfl⟩ := withFlags_eq_ok_iff.mp h
    exact ⟨rfl, flagBits_of_bitOne hf, rfl⟩
  -- no opcode of the map
  case case21 => cases h
  -- the rows that use no bit of `F`
  all_goals
    obtain ⟨hf, rfl⟩ := withFlags_eq_ok_iff.mp h
    exact ⟨rfl, ((noFlags_iff f).mp hf).symm, rfl⟩

/-- The legal headers and nothing else decode, each to its own row (R81, R84, R85). -/
theorem decodeHeader_eq_ok_iff {h : Word32} {hd : Header} :
    decodeHeader h = .ok hd ↔ h = headerWord hd.opcode hd.fField ∧ hd.legal = true := by
  unfold decodeHeader
  constructor
  · intro hdec
    split at hdec
    next => cases hdec
    next hrsv =>
      obtain ⟨hopc, hf, hlegal⟩ := fields_of_decodeOpcode hdec
      exact ⟨by rw [hopc, hf, headerWord_fields (not_not.mp hrsv)], hlegal⟩
  · rintro ⟨rfl, hlegal⟩
    simp [decodeOpcode_of_legal hlegal]

/-! ## Packets -/

/-- A command comes of as many operand words as were due, in packet order. -/
theorem words_of_decodeOperands {hd : Header} {got : List Word64} {n : Nat} {ws : List PortWord} {i : Instr}
    {rest : List PortWord} (h : decodeOperands hd got n ws = .command i rest) :
    ∃ ops : List Word64, ops.length = n ∧ ws = ops.map .operand ++ rest ∧ i = hd.instr (got ++ ops) := by
  induction n generalizing got ws with
  | zero =>
    obtain ⟨rfl, rfl⟩ := Fetch.command.inj h
    exact ⟨[], rfl, rfl, by rw [List.append_nil]⟩
  | succ n ih =>
    match ws, h with
    | .operand w :: ws, h =>
      obtain ⟨ops, rfl, rfl, rfl⟩ := ih h
      exact ⟨w :: ops, rfl, rfl, by rw [List.append_assoc, List.singleton_append]⟩

theorem decode_header (h : Word32) (rest : List PortWord) {hd : Header} (hdec : decodeHeader h = .ok hd) :
    decode (.header h :: rest) = decodeOperands hd [] hd.operandCount rest := by simp only [decode, hdec]

theorem decode_illegal (h : Word32) (rest : List PortWord) {why : IllegalHeader} (hdec : decodeHeader h = .error why) :
    decode (.header h :: rest) = .illegal why rest := by simp only [decode, hdec]

/-- A command is read only from a legal header and the operand words after it. -/
theorem header_of_decode {ws rest : List PortWord} {i : Instr} (h : decode ws = .command i rest) :
    ∃ w hd tail, ws = .header w :: tail ∧ decodeHeader w = .ok hd ∧
      decodeOperands hd [] hd.operandCount tail = .command i rest := by
  match ws, h with
  | .header w :: tail, h =>
    cases hdec : decodeHeader w with
    | error why =>
      rw [decode_illegal w tail hdec] at h
      cases h
    | ok hd => exact ⟨w, hd, tail, rfl, hdec, decode_header w tail hdec ▸ h⟩

/-- Settles O1: the header word gives the command's row, the words after it its operands. -/
theorem decodingAnEncodingGivesTheCommand : Obligations.DecodingAnEncodingGivesTheCommand := by
  intro i rest hi
  obtain ⟨hd, ops, hlen, rfl⟩ := i.exists_header
  rw [Header.wellFormed_instr] at hi
  have hdec : decodeHeader (headerWord hd.opcode hd.fField) = .ok hd := decodeHeader_eq_ok_iff.mpr ⟨rfl, hi⟩
  rw [encode_instr hlen, List.cons_append, decode_header _ _ hdec, ← hlen, decodeOperands_all, List.nil_append]

/-- Settles O2: a command is read only from a legal header, which is the header word of its row, and the operand
words after it. -/
theorem aDecodedPacketIsItsEncoding : Obligations.ADecodedPacketIsItsEncoding := by
  intro ws i rest h
  obtain ⟨w, hd, tail, rfl, hdec, hcommand⟩ := header_of_decode h
  obtain ⟨ops, hlen, rfl, rfl⟩ := words_of_decodeOperands hcommand
  obtain ⟨rfl, hlegal⟩ := decodeHeader_eq_ok_iff.mp hdec
  rw [List.nil_append, encode_instr hlen, Header.wellFormed_instr]
  exact ⟨rfl, hlegal⟩

end Sys2Proof
end

section

/-! The illegal headers of 30_encoding.md R85, and a step on the words that stand at the port. -/

namespace Sys2Proof

open Machine

/-! ## What R85 says of `OPC` and `F` -/

/-- The cases of R85 that are about `OPC` and `F`; the case left is `RSV ≠ 0`. -/
def illegalRow (opc f : Nat) : Prop :=
  opc ∉ opcodes ∨
    (opc ∈ [0x01, 0x04, 0x05, 0x08, 0x18, 0x19, 0x20, 0x30, 0x33, 0x34, 0x35] ∧ f ≠ 0) ∨
    (opc = 0x10 ∧ f / 8 ≠ 0) ∨ (opc ∈ [0x12, 0x31] ∧ f / 4 ≠ 0) ∨
    (opc = 0x32 ∧ (f / 4 ≠ 0 ∨ f % 2 ≠ 0)) ∨
    (opc ∈ [0x06, 0x07] ∧ reservedIndex f) ∨ (opc = 0x06 ∧ f ∈ readOnlyIndices)

theorem illegalWord_iff (h : Word32) :
    illegalWord h ↔ headerRsv h ≠ 0#16 ∨ illegalRow (headerOpc h).toNat (headerF h).toNat := by
  rw [headerOpc_toNat, headerF_toNat, ne_eq, headerRsv_eq_zero_iff]
  exact or_left_comm

theorem exists_withFlags_iff {f used : BitVec 8} {row : Header} :
    (∃ hd, withFlags f used row = .ok hd) ↔ f &&& ~~~used = 0#8 := by simp [withFlags_eq_ok_iff]

theorem exists_readableHeader_iff (f : BitVec 8) :
    (∃ hd, readableHeader f = .ok hd) ↔ ¬ reservedIndex f.toNat := by
  simp [readableHeader_eq_ok_iff, ← Reg.exists_index_iff]

theorem exists_writableHeader_iff (f : BitVec 8) :
    (∃ hd, writableHeader f = .ok hd) ↔ ¬ reservedIndex f.toNat ∧ f.toNat ∉ readOnlyIndices := by
  simp only [writableHeader_eq_ok_iff, ← Reg.exists_index_iff, ne_eq, Reg.access_eq_ro_iff]
  constructor
  · rintro ⟨_, r, rfl, hw, -⟩
    exact ⟨⟨r, rfl⟩, hw⟩
  · rintro ⟨⟨r, rfl⟩, hw⟩
    exact ⟨_, r, rfl, hw, rfl⟩

/-- The opcode map takes every `OPC` and `F` that R85 does not list. -/
theorem exists_decodeOpcode_iff (opc f : BitVec 8) :
    (∃ hd, decodeOpcode opc f = .ok hd) ↔ ¬ illegalRow opc.toNat f.toNat := by
  fun_cases decodeOpcode opc f <;> subst_vars
  -- the rows whose `F` may be any byte
  case case2 | case3 | case10 => simp [illegalRow, opcodes]
  -- `WRREG` and `RDREG`
  case case6 =>
    rw [exists_writableHeader_iff]
    simp [illegalRow, opcodes]
  case case7 =>
    rw [exists_readableHeader_iff]
    simp [illegalRow, opcodes]
  -- `TS_HDR`; `PACK` and `APPEND`; `ACCEPT_V`
  case case9 =>
    rw [exists_withFlags_iff, lowThree_iff]
    simp [illegalRow, opcodes]
  case case11 | case16 =>
    rw [exists_withFlags_iff, lowTwo_iff]
    simp [illegalRow, opcodes]
  case case17 =>
    rw [exists_withFlags_iff, bitOne_iff]
    simp [illegalRow, opcodes]
  -- no opcode of the map
  case case21 =>
    have hopc : opc.toNat ∉ opcodes := by simp_all [opcodes, BitVec.toNat_eq]
    simp [illegalRow, hopc]
  -- the rows that use no bit of `F`
  all_goals
    rw [exists_withFlags_iff, noFlags_iff]
    simp [illegalRow, opcodes, BitVec.toNat_eq]

theorem exists_decodeHeader_iff (h : Word32) : (∃ hd, decodeHeader h = .ok hd) ↔ ¬ illegalWord h := by
  rw [illegalWord_iff, decodeHeader]
  split
  next hrsv => simp [hrsv]
  next hrsv => rw [exists_decodeOpcode_iff, or_iff_right hrsv]

theorem decodeHeader_of_illegalWord {h : Word32} (hill : illegalWord h) : ∃ why, decodeHeader h = .error why := by
  cases hdec : decodeHeader h with
  | error why => exact ⟨why, rfl⟩
  | ok hd => exact absurd hill ((exists_decodeHeader_iff h).mp ⟨hd, hdec⟩)

/-! ## Steps -/

theorem step_of_illegal {s : State} {why : IllegalHeader} {rest : List PortWord}
    (h : decode s.port = .illegal why rest) : step s = .next ((s.setPort rest).raiseError .illegal) := by
  simp only [step, State.fetch, h]
  rfl

theorem step_of_command {s : State} {i : Instr} {rest : List PortWord} (h : decode s.port = .command i rest) :
    step s = exec i (s.setPort rest) := by
  simp only [step, State.fetch, h]

theorem execPutBits_width {s : State} {width : BitVec 8} (value : Word64) (hvalid : s.bwValid = true)
    (hw : 32 < width.toNat) : execPutBits width value s = .next (s.raiseError .range) := by
  rw [execPutBits, if_neg (by simp [hvalid]), if_pos hw, raise]

theorem execPutBits64_width {s : State} {width : BitVec 8} (value : Word64) (hvalid : s.bwValid = true)
    (hw : 64 < width.toNat) : execPutBits64 width value s = .next (s.raiseError .range) := by
  rw [execPutBits64, if_neg (by simp [hvalid]), if_pos hw, raise]

/-- Settles O4: the opcode map refuses exactly the rows R85 lists, and a refused header is one failed command. -/
theorem illegalHeadersEndWithEIllegal : Obligations.IllegalHeadersEndWithEIllegal := by
  refine ⟨?illegal, fun h hlegal => (exists_decodeHeader_iff h).mpr hlegal, ?width⟩
  case illegal =>
    intro s h rest hport hill
    obtain ⟨why, hwhy⟩ := decodeHeader_of_illegalWord hill
    rw [step_of_illegal (hport ▸ decode_illegal h rest hwhy)]
    rfl
  case width =>
    exact fun s width value hvalid => ⟨execPutBits_width value hvalid, execPutBits64_width value hvalid⟩

/-- Settles O3: each listing is the encoding of its command. -/
theorem listedPacketsDecode : Obligations.ListedPacketsDecode := by
  have decodes (i : Instr) (hi : i.wellFormed = true) : decode (encode i ++ []) = .command i [] :=
    decodingAnEncodingGivesTheCommand i [] hi
  exact ⟨decodes (.putBits 8#8 0x47#64) rfl, decodes .bwFlush rfl, decodes (.wrreg (.global .pmtPid) 0x100#64) rfl,
    decodes (.tsHdr true true false 0x2000#64 0#64 0x1002#64 0#64 514#64) rfl, decodes (.bwInit 0x2000#64 188#64) rfl,
    decodes (.wrreg (.global .outCap) 0x10000#64) rfl, decodes (.append false true 0x4000#64 500#64 0#64 0#64) rfl⟩

/-- Settles O5: the decoder reads the packet back as its command (O1), and the step runs what was read. -/
theorem stepRunsTheDecodedCommand : Obligations.StepRunsTheDecodedCommand := by
  intro s i rest hi hport
  exact step_of_command (hport ▸ decodingAnEncodingGivesTheCommand i rest hi)

end Sys2Proof
end

section

/-! Byte strings as numbers (20_memory.md R65), and a region of `M` that a store extends at its end
(20_memory.md R67). -/

namespace Sys2Proof.Machine

theorem bytesValue_concat (bs : List Byte) (b : Byte) : bytesValue (bs ++ [b]) = bytesValue bs * 256 + b.toNat := by
  rw [bytesValue, List.foldl_concat, ← bytesValue]

theorem bytesValue_append (as bs : List Byte) :
    bytesValue (as ++ bs) = bytesValue as * 2 ^ (8 * bs.length) + bytesValue bs := by
  induction bs using List.reverseRecOn with
  | nil => simp [bytesValue]
  | append_singleton bs b ih =>
    rw [← List.append_assoc, bytesValue_concat, ih, bytesValue_concat, List.length_append, List.length_singleton,
      Nat.mul_add, pow_add]
    ring

/-- Big-endian bytes read back as the low bits they were made from (00_scope.md R11). -/
theorem bytesValue_beBytes (n v : Nat) : bytesValue (beBytes n v) = v % 2 ^ (8 * n) := by
  induction n with
  | zero => simp [beBytes, bytesValue, Nat.mod_one]
  | succ n ih =>
    have hfirst : bytesValue [BitVec.ofNat 8 (v / 2 ^ (8 * n))] = v / 2 ^ (8 * n) % 2 ^ 8 := by simp [bytesValue]
    rw [beBytes, ← List.singleton_append, bytesValue_append, hfirst, ih, length_beBytes, Nat.mul_succ, pow_add,
      Nat.mod_mul]
    ring

theorem Memory.readBytes_add (m : Memory) (a n k : Nat) :
    m.readBytes a (n + k) = m.readBytes a n ++ m.readBytes (a + n) k := by
  simp [Memory.readBytes, List.range_add, add_assoc]

/-- A store right behind a region extends it. -/
theorem Memory.readBytes_writeBytes_behind (m : Memory) (a n : Nat) (bs : List Byte) :
    (m.writeBytes (a + n) bs).readBytes a (n + bs.length) = m.readBytes a n ++ bs := by
  rw [Memory.readBytes_add, Memory.readBytes_writeBytes, Memory.readBytes_writeBytes_outside m (.inl le_rfl)]

/-- Bytes committed right behind the earlier ones extend the number they make. -/
theorem bytesValue_commit (m : Memory) (a p : Nat) {n word : Nat} (hword : word < 2 ^ (8 * n)) :
    bytesValue ((m.writeBytes (a + p) (beBytes n word)).readBytes a (p + n)) =
      bytesValue (m.readBytes a p) * 2 ^ (8 * n) + word := by
  have hread := m.readBytes_writeBytes_behind a p (beBytes n word)
  rw [length_beBytes] at hread
  rw [hread, bytesValue_append, length_beBytes, bytesValue_beBytes, Nat.mod_eq_of_lt hword]

/-! ## Bit strings as numbers -/

/-- `n` bits behind `m` bits are `m + n` bits. -/
theorem joinedBits_lt {m n a x : Nat} (ha : a < 2 ^ m) (hx : x < 2 ^ n) : a * 2 ^ n + x < 2 ^ (m + n) := by
  calc a * 2 ^ n + x < (a + 1) * 2 ^ n := by rw [Nat.add_mul]; omega
    _ ≤ 2 ^ m * 2 ^ n := Nat.mul_le_mul_right _ ha
    _ = 2 ^ (m + n) := (pow_add _ _ _).symm

/-- Bits `x` in two parts, of which the first `fill` complete a word with the `n` bits of `a`, behind the bits
`b` and `a`. -/
theorem joinedBits_split (b a x n fill rest : Nat) :
    (b * 2 ^ (n + fill) + (a * 2 ^ fill + x / 2 ^ rest)) * 2 ^ rest + x % 2 ^ rest =
      (b * 2 ^ n + a) * 2 ^ (fill + rest) + x := by
  calc (b * 2 ^ (n + fill) + (a * 2 ^ fill + x / 2 ^ rest)) * 2 ^ rest + x % 2 ^ rest
      = (b * 2 ^ n + a) * 2 ^ (fill + rest) + (2 ^ rest * (x / 2 ^ rest) + x % 2 ^ rest) := by
        rw [pow_add, pow_add]
        ring
    _ = (b * 2 ^ n + a) * 2 ^ (fill + rest) + x := by rw [Nat.div_add_mod]

/-- The `high` bits of a field above its lowest `low`, and then those, are the field. -/
theorem joinedBits_mod (b v high low : Nat) :
    (b * 2 ^ high + v / 2 ^ low % 2 ^ high) * 2 ^ low + v % 2 ^ low = b * 2 ^ (low + high) + v % 2 ^ (low + high) := by
  rw [pow_add, Nat.mod_mul]
  ring

end Sys2Proof.Machine
end

section

/-! The bit writer's appends, its flush and its commands (40_bitwriter.md): what each does to the bit string, the
counts and `M`. -/

namespace Sys2Proof.Machine

/-! ## Appends (R103, R105) -/

/-- What an append of the low `w` bits of `v` leaves (R100, R101): the longer bit string and its count, a good writer
over the same region, and `M` as it was but for the words committed. -/
structure AppendsBits (w v : Nat) (s u : State) : Prop where
  bits : u.bitString = s.bitString * 2 ^ w + v % 2 ^ w
  count : u.bw.bitcnt.toNat = s.bw.bitcnt.toNat + w
  writer : u.bw.Ok
  base : u.bw.base = s.bw.base
  bound : u.bw.bound = s.bw.bound
  stores : Memory.SameOutside s.mem u.mem (s.bw.base.toNat + s.bw.ptr.toNat) (4 * ((s.bw.accn.toNat + w) / 32))
  frame : u = { s with bw := u.bw, mem := u.mem }

theorem WriterStep.frame {s u : State} (h : WriterStep s u) : u = { s with bw := u.bw, mem := u.mem } := by
  obtain ⟨m, b, rfl, _, _⟩ := h
  rfl

/-- Either the field stays in the accumulator, or its first bits fill a word with the pending ones (R101). -/
theorem bwPut_bitString {w v : Nat} {s u : State} (hb : s.bw.Ok) (hw : w ≤ 32) (h : bwPut w v s = .ok u) :
    u.bitString = s.bitString * 2 ^ w + v % 2 ^ w := by
  have hv : v % 2 ^ w < 2 ^ w := Nat.mod_lt _ (by positivity)
  obtain ⟨_, _, hptr, haccn, _⟩ := bwPut_position hb hw h
  have hshort := hb.short
  rcases bwPut_cases w v s with ⟨_, hput⟩ | ⟨_, hpart, hput⟩ | ⟨_, hfull, hput⟩ <;> rw [hput] at h
  · cases h
  · have hacc : s.bw.acc.toNat * 2 ^ w + v % 2 ^ w < 2 ^ 32 :=
      (joinedBits_lt hb.pending hv).trans (Nat.pow_lt_pow_right (by decide) hpart)
    rw [Nat.div_eq_of_lt hpart, Nat.mul_zero, Nat.add_zero] at hptr
    rw [Nat.mod_eq_of_lt hpart] at haccn
    obtain rfl := Result.ok.inj h
    rw [State.bitString, hptr, haccn]
    dsimp only
    rw [BitVec.toNat_ofNat, Nat.mod_eq_of_lt hacc, State.bitString, pow_add]
    ring
  · obtain ⟨fill, hfill⟩ : ∃ fill, s.bw.accn.toNat + fill = 32 := ⟨32 - s.bw.accn.toNat, by omega⟩
    obtain ⟨rest, rfl⟩ : ∃ rest, w = fill + rest := ⟨w - fill, by omega⟩
    have hword : s.bw.acc.toNat * 2 ^ fill + v % 2 ^ (fill + rest) / 2 ^ rest < 2 ^ (8 * 4) := by
      rw [show 8 * 4 = s.bw.accn.toNat + fill from hfill.symm]
      exact joinedBits_lt hb.pending (Nat.div_lt_of_lt_mul (by rwa [mul_comm, ← pow_add]))
    have hacc : v % 2 ^ (fill + rest) % 2 ^ rest < 2 ^ 32 :=
      (Nat.mod_lt _ (by positivity)).trans_le (Nat.pow_le_pow_right (by decide) (by omega))
    have hptr : u.bw.ptr.toNat = s.bw.ptr.toNat + 4 := by omega
    have haccn : u.bw.accn.toNat = rest := by omega
    rw [show 32 - s.bw.accn.toNat = fill by omega, Nat.add_sub_cancel_left] at h
    obtain ⟨u', hstore, h⟩ := Result.bind_eq_ok.mp h
    obtain ⟨_, rfl⟩ := State.store_ok hstore
    obtain rfl := Result.ok.inj h
    rw [State.bitString, hptr, haccn]
    dsimp only
    rw [BitVec.toNat_ofNat, Nat.mod_eq_of_lt hacc, bytesValue_commit _ _ _ hword,
      show 8 * 4 = s.bw.accn.toNat + fill from hfill.symm, joinedBits_split, State.bitString]

theorem bwPut_appendsBits {w v : Nat} {s u : State} (hb : s.bw.Ok) (hw : w ≤ 32) (h : bwPut w v s = .ok u) :
    AppendsBits w v s u := by
  obtain ⟨hbase, hbound, _, _, hcount⟩ := bwPut_position hb hw h
  have hstep := bwPut_step hw h
  exact ⟨bwPut_bitString hb hw h, hcount, hstep.writer_ok hb, hbase, hbound, (bwPut_storesIn h).2, hstep.frame⟩

theorem bwPut64_appendsBits {w v : Nat} {s u : State} (hb : s.bw.Ok) (hw : w ≤ 64) (h : bwPut64 w v s = .ok u) :
    AppendsBits w v s u := by
  have hstep := bwPut64_step hw h
  have hstores := (bwPut64_storesIn hb hw h).2
  unfold bwPut64 at h
  split_ifs at h with hbound hnarrow
  · exact bwPut_appendsBits hb hnarrow h
  · obtain ⟨u', hput, hput'⟩ := Result.bind_eq_ok.mp h
    have hhigh := bwPut_appendsBits hb (by omega) hput
    have hlow := bwPut_appendsBits hhigh.writer le_rfl hput'
    refine ⟨?_, ?_, hlow.writer, hlow.base.trans hhigh.base, hlow.bound.trans hhigh.bound, hstores, hstep.frame⟩
    · rw [hlow.bits, hhigh.bits, Nat.mod_mod, joinedBits_mod, Nat.add_sub_cancel' (by omega)]
    · rw [hlow.count, hhigh.count]
      omega

/-! ## The flush (R106) -/

theorem bwFlush_ok {s u : State} (h : bwFlush s = .ok u) :
    u = { s with
      mem := s.mem.writeBytes (s.bw.base.toNat + s.bw.ptr.toNat)
        (beBytes s.bw.pendingBytes (s.bw.acc.toNat * 2 ^ s.bw.padBits))
      bw := { s.bw with
        ptr := BitVec.ofNat 32 (s.bw.ptr.toNat + s.bw.pendingBytes)
        bitcnt := BitVec.ofNat 64 (s.bw.bitcnt.toNat + s.bw.padBits)
        acc := 0#32, accn := 0#6 } } := by
  obtain ⟨u', hstore, h⟩ := Result.bind_eq_ok.mp h
  obtain ⟨_, rfl⟩ := State.store_ok hstore
  exact (Result.ok.inj h).symm

/-- Nothing is pending after a flush, so the two counts agree. -/
theorem bwFlush_counts {s u : State} (hb : s.bw.Ok) (h : bwFlush s = .ok u) :
    u.bw.ptr.toNat = s.bw.ptr.toNat + s.bw.pendingBytes ∧
      u.bw.bitcnt.toNat = s.bw.bitcnt.toNat + s.bw.padBits ∧ u.bw.bitcnt.toNat = 8 * u.bw.ptr.toNat := by
  have hwhole : u.bw.bitcnt.toNat = 8 * u.bw.ptr.toNat := by
    have hcount := ((bwFlush_step h).writer_ok hb).count
    rwa [show u.bw.accn = 0#6 by rw [bwFlush_ok h]] at hcount
  obtain ⟨hcount, _, hbounded, _, _⟩ := hb
  have hmax := s.bw.bound.isLt
  have hptr : u.bw.ptr.toNat = s.bw.ptr.toNat + s.bw.pendingBytes := by
    rw [bwFlush_ok h]
    exact Nat.mod_eq_of_lt (by unfold BitWriter.pendingBytes; omega)
  refine ⟨hptr, ?_, hwhole⟩
  rw [hwhole, hptr]
  unfold BitWriter.padBits BitWriter.pendingBytes
  omega

theorem bwFlush_bitString {s u : State} (hb : s.bw.Ok) (h : bwFlush s = .ok u) :
    u.bitString = s.bitString * 2 ^ s.bw.padBits := by
  have hwidth : 8 * s.bw.pendingBytes = s.bw.accn.toNat + s.bw.padBits := by
    unfold BitWriter.padBits BitWriter.pendingBytes; omega
  have hbytes : s.bw.acc.toNat * 2 ^ s.bw.padBits < 2 ^ (8 * s.bw.pendingBytes) :=
    hwidth ▸ joinedBits_lt (x := 0) hb.pending (by positivity)
  obtain ⟨hptr, _, _⟩ := bwFlush_counts hb h
  rw [State.bitString, hptr, bwFlush_ok h]
  dsimp only
  rw [bytesValue_commit _ _ _ hbytes, hwidth, State.bitString, pow_add]
  simp only [BitVec.toNat_zero]
  ring

/-! ## The gates (R104 to R108, R111) -/

theorem uninitialised_raises {s : State} (o : Out State) (hvalid : s.bwValid = false) :
    (if !s.bwValid then raise .state s else o) = .next (s.raiseError .state) := by
  rw [hvalid]
  rfl

section Initialised
variable {s u : State} (hvalid : s.bwValid = true)
include hvalid

theorem exec_putBits_of_ok {width : BitVec 8} {value : Word64} (hw : width.toNat ≤ 32)
    (htouch : s.writerTouchesSession = false) (h : bwPut width.toNat value.toNat s = .ok u) :
    exec (.putBits width value) s = .next (u.complete 0#64 0#64) := by
  simp [exec, execPutBits, hvalid, not_lt.mpr hw, htouch, h, succeed]

theorem exec_putBits64_of_ok {width : BitVec 8} {value : Word64} (hw : width.toNat ≤ 64)
    (htouch : s.writerTouchesSession = false) (h : bwPut64 width.toNat value.toNat s = .ok u) :
    exec (.putBits64 width value) s = .next (u.complete 0#64 0#64) := by
  simp [exec, execPutBits64, hvalid, not_lt.mpr hw, htouch, h, succeed]

theorem exec_bwFlush_of_ok (htouch : s.writerTouchesSession = false) (h : bwFlush s = .ok u) :
    exec .bwFlush s = .next (u.complete u.bw.bytesWritten u.bw.bitcnt) := by
  simp [exec, execBwFlush, hvalid, htouch, h, succeed]

theorem exec_putBits_pastBound {width : BitVec 8} (value : Word64) (hw : width.toNat ≤ 32)
    (hbound : 8 * s.bw.bound.toNat < s.bw.bitcnt.toNat + width.toNat) :
    exec (.putBits width value) s = .next (s.raiseError .bwBound) := by
  have hput : bwPut width.toNat value.toNat s = .err .bwBound := if_pos hbound
  simp [exec, execPutBits, hvalid, not_lt.mpr hw, hput]

theorem exec_putBits64_pastBound {width : BitVec 8} (value : Word64) (hw : width.toNat ≤ 64)
    (hbound : 8 * s.bw.bound.toNat < s.bw.bitcnt.toNat + width.toNat) :
    exec (.putBits64 width value) s = .next (s.raiseError .bwBound) := by
  have hput : bwPut64 width.toNat value.toNat s = .err .bwBound := if_pos hbound
  simp [exec, execPutBits64, hvalid, not_lt.mpr hw, hput]

end Initialised

/-! ## The statements -/

/-- Settles O20: the gate that the four commands share. -/
theorem uninitialisedWriterIsRefused : Obligations.UninitialisedWriterIsRefused := by
  intro s width value hvalid
  exact ⟨uninitialised_raises _ hvalid, uninitialised_raises _ hvalid, uninitialised_raises _ hvalid,
    uninitialised_raises _ hvalid⟩

/-- Settles O21: past the gates both appends check the bound first, and `E_BWBOUND` is bit 6 of `ERRLOG`. -/
theorem boundViolationChangesNothing : Obligations.BoundViolationChangesNothing := by
  intro s width value hvalid hbound
  exact ⟨fun hw => exec_putBits_pastBound hvalid value hw hbound,
    fun hw => exec_putBits64_pastBound hvalid value hw hbound⟩

/-- Settles O15: `regionOk` is the rule's range check. -/
theorem bwInitStartsTheWriter : Obligations.BwInitStartsTheWriter := by
  have hheader : headerWord 0x01#8 0x00#8 = 0x00000001#32 := by decide
  refine ⟨fun base bound => congrArg (fun w => [PortWord.header w, .operand base, .operand bound]) hheader,
    fun base bound s => ?_⟩
  have hregion := regionOk_iff base bound
  change if _ then execBwInit base bound s = _ else _ → execBwInit base bound s = _
  split_ifs with hrange
  · have hbad : regionOk base bound = false := by
      rw [Bool.eq_false_iff, ne_eq, hregion, Config.memSize]
      omega
    simp [execBwInit, hbad, raise]
  · intro htouch
    have hgood : regionOk base bound = true := by
      rw [hregion, Config.memSize]
      omega
    simp [execBwInit, hgood, htouch, succeed, State.complete, BitWriter.started, low32]

/-- Settles O19: behind the gate the command has no other case. -/
theorem bwCountReports : Obligations.BwCountReports := by
  refine ⟨rfl, fun s => ?_⟩
  split_ifs with hvalid
  · exact uninitialised_raises _ hvalid
  · simp [exec, execBwCount, hvalid, succeed, State.complete, BitWriter.bytesWritten]

/-- Settles O16: `bwPut_appendsBits` for the one append. -/
theorem putBitsAppendsTheLowBits : Obligations.PutBitsAppendsTheLowBits := by
  intro width value s hvalid hb hw hbound htouch
  obtain ⟨u, hput⟩ := bwPut_succeeds (v := value.toNat) hb hbound
  have h := bwPut_appendsBits hb hw hput
  exact ⟨_, exec_putBits_of_ok hvalid hw htouch hput, h.bits, h.count, h.writer, h.base, h.bound, h.stores,
    congrArg (State.complete · 0#64 0#64) h.frame⟩

/-- Settles O17: `bwPut64_appendsBits`, in which the two appends make one. -/
theorem putBits64AppendsTheLowBits : Obligations.PutBits64AppendsTheLowBits := by
  intro width value s hvalid hb hw hbound htouch
  obtain ⟨u, hput⟩ := bwPut64_succeeds (v := value.toNat) hb hw hbound
  have h := bwPut64_appendsBits hb hw hput
  exact ⟨_, exec_putBits64_of_ok hvalid hw htouch hput, h.bits, h.count, h.writer, h.base, h.bound, h.stores,
    congrArg (State.complete · 0#64 0#64) h.frame⟩

/-- Settles O18: the facts about `bwFlush` for the one flush that answers. -/
theorem bwFlushPadsAndCommits : Obligations.BwFlushPadsAndCommits := by
  refine ⟨rfl, fun s hvalid => uninitialised_raises _ hvalid, fun s hvalid hb htouch => ?_⟩
  obtain ⟨u, hu⟩ := bwFlush_succeeds hb
  have hexec := exec_bwFlush_of_ok hvalid htouch hu
  have hbits := bwFlush_bitString hb hu
  obtain ⟨hptr, hbitcnt, hwhole⟩ := bwFlush_counts hb hu
  have hok := (bwFlush_step hu).writer_ok hb
  obtain rfl := bwFlush_ok hu
  exact ⟨_, hexec, hbits, rfl, rfl, hptr, hbitcnt, hwhole, hok, rfl, rfl,
    s.mem.stored_writeBytes _ _, rfl⟩

end Sys2Proof.Machine
end

section

/-! The bits of a byte string in the order in which the CRC takes them: most significant first (00_scope.md R11,
41_crc32.md R120). -/

namespace Sys2Proof.Machine

/-- The `n` leading bits of a 32-bit word, most significant first. -/
def topBits : Nat → Word32 → List Bool
  | 0, _ => []
  | n + 1, w => w.getLsbD 31 :: topBits n (w <<< 1)

theorem topBits_eight (w : Word32) : topBits 8 w = byteBits (w.extractLsb' 24 8) := by
  simp [topBits, byteBits]

theorem beBytes_word (w : Word32) :
    beBytes 4 w.toNat = [w.extractLsb' 24 8, w.extractLsb' 16 8, w.extractLsb' 8 8, w.extractLsb' 0 8] := by
  simp only [beBytes, BitVec.extractLsb', Nat.shiftRight_eq_div_pow]

/-- The wire order of a word is that of its bits from the top (41_crc32.md R125). -/
theorem topBits_word (w : Word32) : topBits 32 w = (beBytes 4 w.toNat).flatMap byteBits := by
  rw [beBytes_word]
  simp [topBits, byteBits]

theorem append_zeros_shiftLeft (b : Byte) : (b ++ 0#24 : Word32) <<< 8 = 0#32 := by
  apply BitVec.eq_of_getLsbD_eq
  intro i hi
  have hlow : i - 8 < 24 := by omega
  rw [BitVec.getLsbD_shiftLeft, BitVec.getLsbD_append, if_pos hlow]
  simp

end Sys2Proof.Machine
end

section

/-! The CRC register as a bit-serial division (41_crc32.md R120 to R123), what follows for bytes with their own CRC
behind them (R127), and the command `CRC32` (R124). -/

namespace Sys2Proof.Machine

/-! ## The register -/

theorem crcShift_xor (c w : Word32) : crcShift (c ^^^ w) = crcBit c (w.getLsbD 31) ^^^ (w <<< 1) := by
  rw [crcShift, crcBit, BitVec.getLsbD_xor, BitVec.shiftLeft_xor_distrib, Config.crcPolynomial]
  split_ifs
  · rw [BitVec.xor_assoc, BitVec.xor_comm (w <<< 1), BitVec.xor_assoc]
  · rfl

/-- Message bits may be added to the register all at once, or each as it is taken. -/
theorem crcShifts_xor (n : Nat) (c w : Word32) :
    crcShifts n (c ^^^ w) = (topBits n w).foldl crcBit c ^^^ (w <<< n) := by
  induction n generalizing c w with
  | zero => simp [crcShifts, topBits]
  | succ n ih => rw [crcShifts, crcShift_xor, ih, topBits, List.foldl_cons, ← BitVec.shiftLeft_add, Nat.add_comm]

theorem crcShifts_zero (n : Nat) : crcShifts n 0#32 = 0#32 := by
  induction n with
  | zero => rfl
  | succ n ih => exact ih

/-- The eight bits of a byte added at the top leave the register. -/
theorem crcShifts_xor_byte (c : Word32) (b : Byte) :
    crcShifts 8 (c ^^^ (b ++ 0#24)) = (byteBits b).foldl crcBit c := by
  rw [crcShifts_xor, topBits_eight, BitVec.extractLsb'_append_eq_left, append_zeros_shiftLeft, BitVec.xor_zero]

theorem crcTable_eq_foldl (b : Byte) : crcTable b = (byteBits b).foldl crcBit 0#32 := by
  rw [← crcShifts_xor_byte, BitVec.zero_xor, crcTable]

/-- The table holds what the eight leading bits of the register leave behind; its other bits only move up. -/
theorem crcByte_eq_foldl (c : Word32) (b : Byte) : crcByte c b = (byteBits b).foldl crcBit c := by
  have hindex : (c ^^^ (b ++ 0#24)).extractLsb' 24 8 = c.extractLsb' 24 8 ^^^ b := by
    rw [BitVec.extractLsb'_xor, BitVec.extractLsb'_append_eq_left]
  have hrest : (c ^^^ (b ++ 0#24)) <<< 8 = c <<< 8 := by
    rw [BitVec.shiftLeft_xor_distrib, append_zeros_shiftLeft, BitVec.xor_zero]
  calc crcByte c b = (topBits 8 (c ^^^ (b ++ 0#24))).foldl crcBit 0#32 ^^^ ((c ^^^ (b ++ 0#24)) <<< 8) := by
        rw [topBits_eight, hindex, hrest, ← crcTable_eq_foldl, crcByte, BitVec.xor_comm]
    _ = crcShifts 8 (c ^^^ (b ++ 0#24)) := by rw [← crcShifts_xor, BitVec.zero_xor]
    _ = (byteBits b).foldl crcBit c := crcShifts_xor_byte c b

theorem crcMpeg_eq_foldl (seed : Word32) (data : List Byte) :
    crcMpeg seed data = (data.flatMap byteBits).foldl crcBit seed := by
  have hbyte : crcByte = fun c b => (byteBits b).foldl crcBit c := funext₂ crcByte_eq_foldl
  rw [crcMpeg, List.foldl_flatMap, hbyte]

theorem crcMpeg_append (c : Word32) (as bs : List Byte) : crcMpeg c (as ++ bs) = crcMpeg (crcMpeg c as) bs :=
  List.foldl_append

/-- The register's own bits cancel it. -/
theorem crcMpeg_self (c : Word32) : crcMpeg c (beBytes 4 c.toNat) = 0#32 := by
  have hout : c <<< 32 = 0#32 := BitVec.shiftLeft_eq_zero le_rfl
  calc crcMpeg c (beBytes 4 c.toNat) = (topBits 32 c).foldl crcBit c ^^^ (c <<< 32) := by
        rw [crcMpeg_eq_foldl, topBits_word, hout, BitVec.xor_zero]
    _ = crcShifts 32 (c ^^^ c) := (crcShifts_xor 32 c c).symm
    _ = 0#32 := by rw [BitVec.xor_self, crcShifts_zero]

theorem crcMpeg_append_crc (c : Word32) (data : List Byte) :
    crcMpeg c (data ++ beBytes 4 (crcMpeg c data).toNat) = 0#32 := by
  rw [crcMpeg_append, crcMpeg_self]

/-! ## The table packets (45_psi_tables.md R185 to R193) -/

/-- The section stands behind four header bytes and the pointer byte; its CRC and the stuffing follow it. -/
theorem drop_tablePacket (counter pid : Nat) (body : List Byte) :
    (tablePacket counter pid body).drop 5 =
      body ++ (beBytes 4 (crcMpeg crcSeed body).toNat ++ List.replicate (179 - body.length) 0xFF#8) := by
  have hheader : (tsHeader counter true none pid false Config.tsPayloadMax).length = 4 := by
    rw [length_tsHeader]
    rfl
  have hbefore : (tsHeader counter true none pid false Config.tsPayloadMax ++ [0x00#8]).length = 5 := by
    rw [List.length_append, hheader, List.length_singleton]
  have hstuffing : Config.tsPacket - (4 + (body.length + 1 + 4)) = 179 - body.length := by
    rw [Config.tsPacket]
    omega
  rw [← List.drop_left' hbefore (l₂ := _ ++ _)]
  simp [tablePacket, hheader, hstuffing]

/-- A table packet carries the CRC of its section, whatever the section is (41_crc32.md R126, R127). -/
theorem tablePacket_carries_crc {counter pid n : Nat} {body p : List Byte} (hp : p = tablePacket counter pid body)
    (hn : body.length = n) :
    beBytes 4 (crcMpeg crcSeed ((p.drop 5).take n)).toNat = (p.drop (5 + n)).take 4 ∧
      crcMpeg crcSeed ((p.drop 5).take (n + 4)) = 0#32 := by
  have hdrop := drop_tablePacket counter pid body
  have hcrc := length_beBytes 4 (crcMpeg crcSeed body).toNat
  subst hp hn
  rw [← List.drop_drop, hdrop, List.take_left, List.drop_left, List.take_left' hcrc, List.take_length_add_append,
    List.take_left' hcrc]
  exact ⟨rfl, crcMpeg_append_crc crcSeed body⟩

theorem length_patSection (s : State) : (packFields (patFields s)).length = 12 := by
  simp [patFields, fieldsWidth]

theorem length_pmtSection (s : State) : (packFields (pmtFields s)).length = 22 := by
  simp [pmtFields, pmtEntry, fieldsWidth]

/-! ## The command -/

theorem exec_crc32_of_regionOk {addr len : Word64} (seed : Word64) (s : State) (h : regionOk addr len = true) :
    exec (.crc32 seed addr len) s =
      succeed ((crcMpeg (low32 seed) (s.mem.readBytes addr.toNat len.toNat)).setWidth 64) 0#64 s := by
  obtain ⟨_, _, hmem⟩ := (regionOk_iff addr len).mp h
  simp [exec, execCrc32, h, s.load_of_le hmem]

theorem exec_crc32_of_not_regionOk {addr len : Word64} (seed : Word64) (s : State) (h : regionOk addr len = false) :
    exec (.crc32 seed addr len) s = .next (s.raiseError .range) := by
  simp [exec, execCrc32, h, raise]

/-! ## The statements -/

/-- Settles O23: eight steps of the bit-serial register for each look-up. -/
theorem crcIsBitSerialDivision : Obligations.CrcIsBitSerialDivision := crcMpeg_eq_foldl

/-- Settles O24: `tablePacket_carries_crc` for the sections of the two tables. -/
theorem tablePacketsCarryTheirCrc : Obligations.TablePacketsCarryTheirCrc := by
  refine ⟨fun s counter => ?_, crcMpeg_append_crc⟩
  obtain ⟨hpat, hpatRest⟩ := tablePacket_carries_crc (p := patPacket s counter) rfl (length_patSection s)
  obtain ⟨hpmt, hpmtRest⟩ := tablePacket_carries_crc (p := pmtPacket s counter) rfl (length_pmtSection s)
  exact ⟨hpat, hpmt, hpatRest, hpmtRest⟩

/-- Settles O22: `regionOk` is the rule's range check, and a fold over two lists is a fold over their append. -/
theorem crc32OfMemory : Obligations.Crc32OfMemory := by
  have hheader : headerWord 0x08#8 0x00#8 = 0x00000008#32 := by decide
  refine ⟨fun seed addr len =>
      congrArg (fun w => [PortWord.header w, .operand seed, .operand addr, .operand len]) hheader,
    fun seed addr len s => ?_, fun c as bs => (crcMpeg_append c as bs).symm, fun _ => rfl⟩
  have hregion := regionOk_iff addr len
  rw [Config.memSize] at hregion
  split_ifs with hrange
  · refine exec_crc32_of_not_regionOk seed s ?_
    rw [Bool.eq_false_iff, ne_eq, hregion]
    omega
  · refine exec_crc32_of_regionOk seed s (hregion.mpr ?_)
    omega

end Sys2Proof.Machine
end

section

/-! Byte strings written out for the number they make (00_scope.md R11, 20_memory.md R65). -/

namespace Sys2Proof.Machine

theorem beBytes_concat (n v : Nat) : beBytes (n + 1) v = beBytes n (v / 2 ^ 8) ++ [BitVec.ofNat 8 v] := by
  induction n with
  | zero => simp [beBytes]
  | succ n ih =>
    have hfirst : v / 2 ^ (8 * (n + 1)) = v / 2 ^ 8 / 2 ^ (8 * n) := by
      rw [Nat.div_div_eq_div_mul, ← pow_add, Nat.mul_succ, Nat.add_comm]
    rw [beBytes, ih, hfirst, beBytes, List.cons_append]

/-- The bytes of a byte string's number are the byte string: the converse of `bytesValue_beBytes`. -/
theorem beBytes_bytesValue (bs : List Byte) : beBytes bs.length (bytesValue bs) = bs := by
  induction bs using List.reverseRecOn with
  | nil => rfl
  | append_singleton bs b ih =>
    have hrest : (bytesValue bs * 256 + b.toNat) / 2 ^ 8 = bytesValue bs := by omega
    have hlast : BitVec.ofNat 8 (bytesValue bs * 256 + b.toNat) = b := by
      apply BitVec.eq_of_toNat_eq
      rw [BitVec.toNat_ofNat]
      omega
    rw [List.length_append, List.length_singleton, beBytes_concat, bytesValue_concat, hrest, ih, hlast]

/-- Fields are the bytes that make the same number. -/
theorem packFields_of_value {fs : List BitField} {bs : List Byte} (hwidth : fieldsWidth fs = 8 * bs.length)
    (hvalue : fieldsValue 0 fs = bytesValue bs) : packFields fs = bs := by
  rw [packFields, hwidth, hvalue, Nat.mul_div_cancel_left _ (by decide), beBytes_bytesValue]

end Sys2Proof.Machine
end

section

/-! The TS header (42_ts_header.md): its bytes, its length, and the command `TS_HDR`. -/

namespace Sys2Proof.Machine

/-! ## The parts of the header -/

/-- The four fixed bytes (R131, R132): the PID stands in the second and the third. -/
theorem packFields_tsFixedFields (cc : Nat) (pusi : Bool) (pid : Nat) {afc : Nat} (hafc : afc < 4) :
    packFields (tsFixedFields cc pusi pid afc) =
      [0x47#8, BitVec.ofNat 8 ((if pusi then 0x40 else 0) + pid % 8192 / 256), BitVec.ofNat 8 (pid % 256),
       BitVec.ofNat 8 (afc * 16 + cc % 16)] := by
  apply packFields_of_value rfl
  cases pusi <;> simp [tsFixedFields, fieldsValue, flag, Config.tsSync, bytesValue] <;> omega

/-- The length and the flags of the adaptation field (R134). -/
theorem packFields_tsAdaptationFields (afl : Nat) (disc needPcr : Bool) :
    packFields (tsAdaptationFields afl disc needPcr) =
      [BitVec.ofNat 8 afl, BitVec.ofNat 8 ((if disc then 0x80 else 0) + (if needPcr then 0x10 else 0))] := by
  apply packFields_of_value rfl
  cases disc <;> cases needPcr <;> simp [tsAdaptationFields, fieldsValue, flag, bytesValue] <;> omega

/-- The PCR as one 48-bit number (R136). -/
theorem packFields_pcrFields (p : Int) :
    packFields (pcrFields p) = beBytes 6 ((p / 300 % 2 ^ 33).toNat * 2 ^ 15 + 0x3F * 2 ^ 9 + (p % 300).toNat) := by
  have hvalue : fieldsValue 0 (pcrFields p) =
      (p / 300 % 2 ^ 33).toNat * 2 ^ 15 + 0x3F * 2 ^ 9 + (p % 300).toNat := by
    simp only [pcrFields, fieldsValue, low33, Config.pcrExtension]
    omega
  have hwidth : fieldsWidth (pcrFields p) = 48 := rfl
  rw [packFields, hvalue, hwidth]

theorem six_mul_flag (b : Bool) : 6 * flag b = if b then 6 else 0 := by cases b <;> rfl

theorem tsAfc_lt_four (needPcr disc : Bool) (payload : Nat) : tsAfc needPcr disc payload < 4 := by
  unfold tsAfc
  split_ifs <;> decide

/-- The header as one byte string: the fixed bytes, and behind them the adaptation field where there is one (R137). -/
theorem tsHeader_eq (cc : Nat) (pusi : Bool) (pcr : Option Int) (pid : Nat) (disc : Bool) (payload : Nat) :
    tsHeader cc pusi pcr pid disc payload =
      packFields (tsFixedFields cc pusi pid (tsAfc pcr.isSome disc payload)) ++
        if tsAfc pcr.isSome disc payload = 1 then []
        else
          packFields (tsAdaptationFields (tsAfLength pcr.isSome payload) disc pcr.isSome) ++
            pcr.elim [] (fun p => packFields (pcrFields p)) ++
            List.replicate (tsStuffing pcr.isSome payload) 0xFF#8 := by
  unfold tsHeader
  dsimp only
  split_ifs
  · rw [List.append_nil]
  · cases pcr <;> simp

theorem head?_tsHeader (cc : Nat) (pusi : Bool) (pcr : Option Int) (pid : Nat) (disc : Bool) (payload : Nat) :
    (tsHeader cc pusi pcr pid disc payload).head? = some 0x47#8 := by
  rw [tsHeader_eq, packFields_tsFixedFields _ _ _ (tsAfc_lt_four _ _ _)]
  rfl

/-! ## Its length, by the rows of the table (R137) -/

theorem tsHeaderLength_of_plain {payload : Nat} (hsize : 184 ≤ payload) : tsHeaderLength false false payload = 4 :=
  if_pos ((tsAfc_eq_one_iff false false payload).mpr ⟨hsize, rfl, rfl⟩)

theorem tsHeaderLength_of_noPcr {disc : Bool} {payload : Nat} (h : payload < 184 ∨ disc = true) :
    tsHeaderLength false disc payload = 6 + (182 - payload) := by
  have hafc : ¬ tsAfc false disc payload = 1 := by
    rw [tsAfc_eq_one_iff]
    rintro ⟨hsize, _, hdisc⟩
    rcases h with hshort | rfl
    · omega
    · cases hdisc
  rw [tsHeaderLength, if_neg hafc, tsAfLength, tsStuffing, flag, if_neg Bool.false_ne_true]
  omega

theorem tsHeaderLength_of_pcr (disc : Bool) (payload : Nat) :
    tsHeaderLength true disc payload = 12 + (176 - payload) := by
  have hafc : ¬ tsAfc true disc payload = 1 := by simp [tsAfc_eq_one_iff]
  rw [tsHeaderLength, if_neg hafc, tsAfLength, tsStuffing, flag, if_pos rfl]
  omega

theorem four_le_tsHeaderLength (needPcr disc : Bool) (payload : Nat) : 4 ≤ tsHeaderLength needPcr disc payload := by
  unfold tsHeaderLength
  split_ifs <;> omega

/-! ## The statements about the header -/

/-- Settles O25: the parts of the header one after the other, and the sum of their lengths. -/
theorem tsHeaderBytes : Obligations.TsHeaderBytes := by
  intro cc pusi pcr pid disc payload
  dsimp only
  rw [length_tsHeader]
  refine ⟨?bytes, fun hsize hpcr hdisc => ?plain, fun _ hpcr hdisc => ?signalled, fun _ hpcr => ?full,
    fun _ hpcr => ?oneShort, fun _ _ hpcr => ?stuffed, fun _ _ hpcr => ?stuffedPcr, fun hempty => ?empty⟩
  case bytes =>
    rw [tsHeader_eq, packFields_tsFixedFields _ _ _ (tsAfc_lt_four _ _ _), packFields_tsAdaptationFields, tsAfLength,
      tsStuffing, six_mul_flag]
    cases pcr with
    | none => rfl
    | some p => rw [Option.elim_some, packFields_pcrFields]; rfl
  case plain => rw [hpcr, hdisc, tsHeaderLength_of_plain hsize]
  case signalled => rw [hpcr, tsHeaderLength_of_noPcr (.inr hdisc)]; omega
  case full => rw [hpcr, tsHeaderLength_of_pcr]; omega
  case oneShort => rw [hpcr, tsHeaderLength_of_noPcr (.inl (by omega))]; omega
  case stuffed => rw [hpcr, tsHeaderLength_of_noPcr (.inl (by omega))]; omega
  case stuffedPcr => rw [hpcr, tsHeaderLength_of_pcr]; omega
  case empty =>
    subst hempty
    cases pcr.isSome with
    | false => exact tsHeaderLength_of_noPcr (.inl (by decide))
    | true => exact tsHeaderLength_of_pcr disc 0

/-- Settles O26: the first of the two conditions holds always. -/
theorem tsHeaderFillsThePacket : Obligations.TsHeaderFillsThePacket := by
  intro cc pusi pcr pid disc payload
  obtain ⟨hfits, hfills⟩ := tsHeaderLength_fills pcr.isSome disc payload
  have hfixed := four_le_tsHeaderLength pcr.isSome disc payload
  dsimp only
  rw [length_tsHeader]
  exact ⟨head?_tsHeader cc pusi pcr pid disc payload, hfixed, hfits, by omega, .inl (by omega)⟩

/-! ## The command -/

/-- The flags of a command as its `F` field's number (30_encoding.md R84). -/
theorem flagBits_eq (b0 b1 b2 : Bool) :
    flagBits b0 b1 b2 = BitVec.ofNat 8 ((if b0 then 1 else 0) + (if b1 then 2 else 0) + (if b2 then 4 else 0)) := by
  revert b0 b1 b2
  decide

theorem pcrRequest_of_none {needPcr : Bool} {time : Word64} (h : needPcr = true ∧ ticks27M time = none) :
    pcrRequest needPcr time = .err .range := by
  obtain ⟨rfl, hticks⟩ := h
  rw [pcrRequest, if_pos rfl, hticks]
  rfl

theorem pcrRequest_of_some {needPcr : Bool} {time : Word64} (h : ¬ (needPcr = true ∧ ticks27M time = none)) :
    pcrRequest needPcr time = .ok (if needPcr then ticks27M time else none) := by
  cases needPcr with
  | false => rfl
  | true =>
    obtain ⟨p, hp⟩ := Option.ne_none_iff_exists'.mp fun hnone => h ⟨rfl, hnone⟩
    simp [pcrRequest, hp]

/-- The end of a command that builds bytes at a destination with room for them. -/
theorem conclude_store_succeeds {s : State} {a : Nat} {bs : List Byte} (r0 r1 : Word64)
    (h : a + bs.length ≤ Config.memSize) :
    conclude s (s.store a bs) (fun u => succeed r0 r1 { u with bwValid := false }) =
      .next (State.complete { s with mem := s.mem.writeBytes a bs, bwValid := false } r0 r1) := by
  rw [State.store_of_le s h, conclude_ok, succeed]

section Command
variable {pusi needPcr disc : Bool} {dst cc pid time payload : Word64} {s : State}

theorem execTsHdr_operandRange (h : (packetRoomOk dst && fits32 payload) = false) :
    execTsHdr pusi needPcr disc dst cc pid time payload s = .next (s.raiseError .range) := by
  rw [execTsHdr, h]
  rfl

theorem execTsHdr_pcrRange (hok : (packetRoomOk dst && fits32 payload) = true)
    (hpcr : needPcr = true ∧ ticks27M time = none) :
    execTsHdr pusi needPcr disc dst cc pid time payload s = .next (s.raiseError .range) := by
  rw [execTsHdr, if_neg (by simpa using hok), pcrRequest_of_none hpcr, conclude_err]

theorem execTsHdr_stores {header : List Byte} (hok : (packetRoomOk dst && fits32 payload) = true)
    (hpcr : ¬ (needPcr = true ∧ ticks27M time = none)) (htouch : s.touchesSession dst.toNat 188 = false)
    (hheader : header = tsHeader (lowBits 4 cc) pusi (if needPcr then ticks27M time else none) (lowBits 13 pid) disc
      payload.toNat) :
    execTsHdr pusi needPcr disc dst cc pid time payload s =
      .next (State.complete { s with mem := s.mem.writeBytes dst.toNat header, bwValid := false }
        (BitVec.ofNat 64 header.length) (BitVec.ofNat 64 (188 - header.length))) := by
  obtain ⟨_, hmem⟩ := (packetRoomOk_iff dst).mp (Bool.and_eq_true_iff.mp hok).1
  have hlength : header.length ≤ 188 := by
    rw [hheader, length_tsHeader]
    exact (tsHeaderLength_fills _ _ _).1
  rw [execTsHdr, if_neg (by simpa using hok), pcrRequest_of_some hpcr, conclude_ok, ← hheader, Config.tsPacket,
    htouch]
  exact conclude_store_succeeds _ _ (by omega)

end Command

/-- Settles O27: the two errors in their order, and else one store of at most 188 bytes. -/
theorem tsHdrStoresTheHeader : Obligations.TsHdrStoresTheHeader := by
  refine ⟨fun pusi needPcr disc dst cc pid time payload =>
      congrArg (fun f => [PortWord.header (headerWord 0x10#8 f), .operand dst, .operand cc, .operand pid, .operand time,
        .operand payload]) (flagBits_eq pusi needPcr disc),
    fun pusi needPcr disc dst cc pid time payload s => ?_⟩
  have hgate : (packetRoomOk dst && fits32 payload) = true ↔
      ¬ (2 ^ 32 ≤ dst.toNat ∨ 2 ^ 32 ≤ payload.toNat ∨ 2 ^ 32 < dst.toNat + 188) := by
    rw [Bool.and_eq_true_iff, packetRoomOk_iff, fits32, decide_eq_true_iff, Config.memSize]
    omega
  by_cases hrange : 2 ^ 32 ≤ dst.toNat ∨ 2 ^ 32 ≤ payload.toNat ∨ 2 ^ 32 < dst.toNat + 188
  · rw [if_pos hrange]
    exact execTsHdr_operandRange (Bool.eq_false_iff.mpr fun hok => hgate.mp hok hrange)
  have hok := hgate.mpr hrange
  rw [if_neg hrange]
  by_cases hpcr : needPcr = true ∧ ticks27M time = none
  · rw [if_pos hpcr]
    exact execTsHdr_pcrRange hok hpcr
  · rw [if_neg hpcr]
    intro htouch header
    have hexec := execTsHdr_stores (header := header) hok hpcr htouch rfl
    exact ⟨_, hexec, s.mem.stored_writeBytes _ header, rfl⟩

end Sys2Proof.Machine
end

section

/-! Bit fields one behind the other (00_scope.md R11): the bytes of whole bytes of fields are the bytes of each part. -/

namespace Sys2Proof.Machine

/-- Fields behind a bit string shift it up by their width. -/
theorem fieldsValue_eq_add (acc : Nat) (fs : List BitField) :
    fieldsValue acc fs = acc * 2 ^ fieldsWidth fs + fieldsValue 0 fs := by
  induction fs generalizing acc with
  | nil => simp [fieldsValue, fieldsWidth]
  | cons f fs ih =>
    rw [fieldsValue, fieldsValue, ih, ih (0 * _ + _), fieldsWidth, pow_add]
    ring

theorem fieldsValue_lt (fs : List BitField) : fieldsValue 0 fs < 2 ^ fieldsWidth fs := by
  induction fs with
  | nil => exact Nat.one_pos
  | cons f fs ih =>
    rw [fieldsValue, Nat.zero_mul, Nat.zero_add, fieldsValue_eq_add, fieldsWidth]
    exact joinedBits_lt (Nat.mod_lt _ (Nat.two_pow_pos _)) ih

/-- The number that the bytes of fields make is the bit string of the fields. -/
theorem bytesValue_packFields {fs : List BitField} (h : 8 ∣ fieldsWidth fs) :
    bytesValue (packFields fs) = fieldsValue 0 fs := by
  rw [packFields, bytesValue_beBytes, Nat.mul_div_cancel' h, Nat.mod_eq_of_lt (fieldsValue_lt fs)]

theorem packFields_append {fs gs : List BitField} (hfs : 8 ∣ fieldsWidth fs) (hgs : 8 ∣ fieldsWidth gs) :
    packFields (fs ++ gs) = packFields fs ++ packFields gs := by
  apply packFields_of_value
  · rw [fieldsWidth_append, List.length_append, length_packFields, length_packFields]
    omega
  · rw [fieldsValue_append, fieldsValue_eq_add, bytesValue_append, bytesValue_packFields hfs,
      bytesValue_packFields hgs, length_packFields, Nat.mul_div_cancel' hgs]

end Sys2Proof.Machine
end

section

/-! The PES header (43_pes_header.md): its bytes and the command `PES_HDR`. -/

namespace Sys2Proof.Machine

/-! ## The parts of the header -/

theorem pesBoth_eq (p d : Int) : pesBoth p d = decide (10 < (p - d).natAbs) := rfl

/-- The length field holds 0 for video and else the low 16 bits of the sum (R152). -/
theorem pesLength_mod (sid payload : Nat) (both : Bool) :
    pesLength sid payload both % 2 ^ 16 =
      if sid % 256 / 16 = 0xE then 0 else (payload + 3 + if both then 10 else 5) % 65536 := by
  by_cases hvideo : sid % 256 / 16 = 0xE <;> simp [pesLength, sidIsVideo, pesTlen, hvideo]

theorem fieldsWidth_pesFixedFields (sid payload : Nat) (both : Bool) :
    fieldsWidth (pesFixedFields sid payload both) = 72 := by simp [pesFixedFields, fieldsWidth]

/-- The nine bytes before the timestamps, `len16` in the fifth and the sixth (R151). -/
theorem packFields_pesFixedFields {sid payload len16 : Nat} {both : Bool}
    (hlen : pesLength sid payload both % 2 ^ 16 = len16) :
    packFields (pesFixedFields sid payload both) =
      [0x00#8, 0x00#8, 0x01#8, BitVec.ofNat 8 (sid % 256), BitVec.ofNat 8 (len16 / 256), BitVec.ofNat 8 (len16 % 256),
       0x80#8, if both then 0xC0#8 else 0x80#8, BitVec.ofNat 8 (if both then 10 else 5)] := by
  apply packFields_of_value (fieldsWidth_pesFixedFields sid payload both)
  cases both <;> simp [pesFixedFields, fieldsValue, pesTlen, bytesValue] <;> omega

/-- A timestamp's 33 bits in three parts, a marker bit behind each (R156). -/
theorem packFields_pesTimeFields (pre : Nat) (v : Int) :
    packFields (pesTimeFields pre v) =
      [BitVec.ofNat 8 (pre * 16 + low33 v / 2 ^ 30 * 2 + 1), BitVec.ofNat 8 (low33 v / 2 ^ 22 % 256),
       BitVec.ofNat 8 (low33 v / 2 ^ 15 % 128 * 2 + 1), BitVec.ofNat 8 (low33 v / 2 ^ 7 % 256),
       BitVec.ofNat 8 (low33 v % 128 * 2 + 1)] := by
  have hbits : low33 v < 2 ^ 33 := by unfold low33; omega
  apply packFields_of_value rfl
  simp only [pesTimeFields, fieldsValue, bytesValue, List.foldl_cons, List.foldl_nil, BitVec.toNat_ofNat]
  omega

theorem eight_dvd_fieldsWidth_pesTimeFields (pre : Nat) (v : Int) : 8 ∣ fieldsWidth (pesTimeFields pre v) := ⟨5, rfl⟩

/-- One timestamp, or two where they are more than 10 ticks apart (R155, R157). -/
theorem packFields_pesTimes (p d : Int) :
    packFields (pesTimes p d) =
      if 10 < (p - d).natAbs then packFields (pesTimeFields 0b0011 p) ++ packFields (pesTimeFields 0b0001 d)
      else packFields (pesTimeFields 0b0010 p) := by
  simp only [pesTimes, pesBoth_eq, decide_eq_true_eq]
  split_ifs
  · exact packFields_append (eight_dvd_fieldsWidth_pesTimeFields _ p) (eight_dvd_fieldsWidth_pesTimeFields _ d)
  · rfl

theorem pesHeader_eq (payload : Nat) (p d : Int) (sid : Nat) :
    pesHeader payload p d sid =
      packFields (pesFixedFields sid payload (pesBoth p d)) ++ packFields (pesTimes p d) := by
  have hfixed := fieldsWidth_pesFixedFields sid payload (pesBoth p d)
  refine packFields_append ⟨9, hfixed⟩ ?_
  rw [pesTimes]
  split_ifs
  · rw [fieldsWidth_append]
    exact dvd_add (eight_dvd_fieldsWidth_pesTimeFields _ p) (eight_dvd_fieldsWidth_pesTimeFields _ d)
  · exact eight_dvd_fieldsWidth_pesTimeFields _ p

/-- Settles O28: the fixed bytes, then one stamp or two. -/
theorem pesHeaderBytes : Obligations.PesHeaderBytes := by
  intro payload sid p d
  dsimp only
  rw [pesHeader_eq, packFields_pesFixedFields (pesLength_mod _ _ _), packFields_pesTimes]
  simp only [packFields_pesTimeFields, pesBoth_eq, low33, decide_eq_true_eq]

/-! ## The command -/

theorem pesTicks_of_none {bias pts dts : Word64} (h : ticks90 bias pts = none ∨ ticks90 bias dts = none) :
    pesTicks bias pts dts = .err .range := by
  rcases h with hpts | hdts
  · rw [pesTicks, hpts]
    rfl
  · rw [pesTicks, hdts]
    cases ticks90 bias pts <;> rfl

theorem ofNat_flag_pesBoth (p d : Int) :
    BitVec.ofNat 64 (flag (pesBoth p d)) = if 10 < (p - d).natAbs then 1#64 else 0#64 := by
  rw [pesBoth_eq]
  by_cases h : 10 < (p - d).natAbs <;> simp [flag, h]

section Command
variable {sid : BitVec 8} {dst bound payload pts dts : Word64} {s : State}

theorem execPesHdr_operandRange (h : (regionOk dst bound && fits32 payload && finite pts && finite dts) = false) :
    execPesHdr sid dst bound payload pts dts s = .next (s.raiseError .range) := by
  rw [execPesHdr, h]
  rfl

variable (hok : (regionOk dst bound && fits32 payload && finite pts && finite dts) = true)
include hok

theorem execPesHdr_tickRange (h : ticks90 s.bias pts = none ∨ ticks90 s.bias dts = none) :
    execPesHdr sid dst bound payload pts dts s = .next (s.raiseError .range) := by
  rw [execPesHdr, if_neg (by simpa using hok), pesTicks_of_none h, conclude_err]

variable {p d : Int} (hp : ticks90 s.bias pts = some p) (hd : ticks90 s.bias dts = some d)
include hp hd

theorem execPesHdr_bwBound (hbound : bound.toNat < (pesHeader payload.toNat p d sid.toNat).length) :
    execPesHdr sid dst bound payload pts dts s = .next (s.raiseError .bwBound) := by
  rw [execPesHdr, if_neg (by simpa using hok), pesTicks_of_some hp hd, conclude_ok]
  exact if_pos hbound

theorem execPesHdr_stores {header : List Byte} (hheader : header = pesHeader payload.toNat p d sid.toNat)
    (hbound : ¬ bound.toNat < header.length) (htouch : s.touchesSession dst.toNat bound.toNat = false) :
    execPesHdr sid dst bound payload pts dts s =
      .next (State.complete { s with mem := s.mem.writeBytes dst.toNat header, bwValid := false }
        (BitVec.ofNat 64 header.length) (if 10 < (p - d).natAbs then 1#64 else 0#64)) := by
  obtain ⟨⟨⟨hregion, -⟩, -⟩, -⟩ := by simpa only [Bool.and_eq_true] using hok
  obtain ⟨_, _, hmem⟩ := (regionOk_iff dst bound).mp hregion
  rw [execPesHdr, if_neg (by simpa using hok), pesTicks_of_some hp hd, conclude_ok]
  dsimp only
  rw [← hheader, if_neg hbound, htouch, ofNat_flag_pesBoth]
  exact conclude_store_succeeds _ _ (by omega)

end Command

/-- Settles O29: the operands, the tick counts and the bound in their order, and else one store inside the bound. -/
theorem pesHdrStoresTheHeader : Obligations.PesHdrStoresTheHeader := by
  refine ⟨fun _ _ _ _ _ _ => rfl, fun sid dst bound payload pts dts s => ?_⟩
  have hgate : (regionOk dst bound && fits32 payload && finite pts && finite dts) = true ↔
      ¬ (2 ^ 32 ≤ dst.toNat ∨ 2 ^ 32 ≤ bound.toNat ∨ 2 ^ 32 ≤ payload.toNat ∨ 2 ^ 32 < dst.toNat + bound.toNat) ∧
        ¬ (finite pts = false ∨ finite dts = false) := by
    have hwords : (regionOk dst bound && fits32 payload) = true ↔
        ¬ (2 ^ 32 ≤ dst.toNat ∨ 2 ^ 32 ≤ bound.toNat ∨ 2 ^ 32 ≤ payload.toNat ∨
          2 ^ 32 < dst.toNat + bound.toNat) := by
      rw [Bool.and_eq_true, regionOk_iff, fits32, decide_eq_true_iff, Config.memSize]
      omega
    rw [Bool.and_eq_true, Bool.and_eq_true, hwords, not_or (p := finite pts = false), Bool.not_eq_false,
      Bool.not_eq_false, and_assoc]
  by_cases hrange : 2 ^ 32 ≤ dst.toNat ∨ 2 ^ 32 ≤ bound.toNat ∨ 2 ^ 32 ≤ payload.toNat ∨
      2 ^ 32 < dst.toNat + bound.toNat
  · rw [if_pos hrange]
    exact execPesHdr_operandRange (Bool.eq_false_iff.mpr fun hok => (hgate.mp hok).1 hrange)
  rw [if_neg hrange]
  by_cases hfinite : finite pts = false ∨ finite dts = false
  · rw [if_pos hfinite]
    exact execPesHdr_operandRange (Bool.eq_false_iff.mpr fun hok => (hgate.mp hok).2 hfinite)
  rw [if_neg hfinite]
  have hok := hgate.mpr ⟨hrange, hfinite⟩
  cases hp : ticks90 s.bias pts with
  | none => exact execPesHdr_tickRange hok (.inl hp)
  | some p =>
    cases hd : ticks90 s.bias dts with
    | none => exact execPesHdr_tickRange hok (.inr hd)
    | some d =>
      dsimp only
      by_cases hbound : bound.toNat < (pesHeader payload.toNat p d sid.toNat).length
      · rw [if_pos hbound]
        exact execPesHdr_bwBound hok hp hd hbound
      · rw [if_neg hbound]
        intro htouch
        exact ⟨_, execPesHdr_stores hok hp hd rfl hbound htouch, s.mem.stored_writeBytes _ _, rfl⟩

end Sys2Proof.Machine
end

section

/-! The packets of one PES packet as a receiver reads them (44_packetizer.md R171 to R177): the fields and the payload
of one packet, and the loop that builds them all. -/

namespace Sys2Proof.Machine

/-! ## One packet (42_ts_header.md R131 to R135, 44_packetizer.md R171) -/

/-- The fixed bytes of a packet, whatever stands behind its header. -/
theorem tsHeader_append_eq_cons (cc : Nat) (pusi : Bool) (pcr : Option Int) (pid : Nat) (disc : Bool) (payload : Nat)
    (xs : List Byte) :
    ∃ ys, tsHeader cc pusi pcr pid disc payload ++ xs =
      0x47#8 :: BitVec.ofNat 8 ((if pusi then 0x40 else 0) + pid % 8192 / 256) :: BitVec.ofNat 8 (pid % 256) ::
        BitVec.ofNat 8 (tsAfc pcr.isSome disc payload * 16 + cc % 16) :: ys := by
  rw [tsHeader_eq, packFields_tsFixedFields _ _ _ (tsAfc_lt_four _ _ _), List.append_assoc]
  exact ⟨_, rfl⟩

section Fields
variable (cc : Nat) (pusi : Bool) (pcr : Option Int) (pid : Nat) (disc : Bool) (payload : Nat) (xs : List Byte)

theorem packetCc_tsHeader_append : packetCc (tsHeader cc pusi pcr pid disc payload ++ xs) = cc % 16 := by
  obtain ⟨ys, h⟩ := tsHeader_append_eq_cons cc pusi pcr pid disc payload xs
  simp only [h, packetCc, List.getD_cons_succ, List.getD_cons_zero, BitVec.toNat_ofNat]
  omega

theorem packetAfc_tsHeader_append :
    packetAfc (tsHeader cc pusi pcr pid disc payload ++ xs) = tsAfc pcr.isSome disc payload := by
  obtain ⟨ys, h⟩ := tsHeader_append_eq_cons cc pusi pcr pid disc payload xs
  have hafc := tsAfc_lt_four pcr.isSome disc payload
  simp only [h, packetAfc, List.getD_cons_succ, List.getD_cons_zero, BitVec.toNat_ofNat]
  omega

theorem packetPid_tsHeader_append : packetPid (tsHeader cc pusi pcr pid disc payload ++ xs) = pid % 8192 := by
  obtain ⟨ys, h⟩ := tsHeader_append_eq_cons cc pusi pcr pid disc payload xs
  simp only [h, packetPid, List.getD_cons_succ, List.getD_cons_zero, BitVec.toNat_ofNat]
  split <;> omega

theorem packetStart_tsHeader_append : packetStart (tsHeader cc pusi pcr pid disc payload ++ xs) = pusi := by
  obtain ⟨ys, h⟩ := tsHeader_append_eq_cons cc pusi pcr pid disc payload xs
  simp only [h, packetStart, List.getD_cons_succ, List.getD_cons_zero, BitVec.getLsbD_ofNat,
    Nat.testBit_eq_decide_div_mod_eq]
  cases pusi <;> simp <;> omega

/-- The byte behind the fixed ones states how much of the adaptation field follows it (42_ts_header.md R134, R135). -/
theorem adaptationLength_tsHeader_append (h : tsAfc pcr.isSome disc payload ≠ 1) :
    ((tsHeader cc pusi pcr pid disc payload ++ xs).getD 4 0#8).toNat = tsAfLength pcr.isSome payload := by
  have hlt : tsAfLength pcr.isSome payload < 256 := by
    have hflag : flag pcr.isSome ≤ 1 := by cases pcr.isSome <;> decide
    unfold tsAfLength tsStuffing
    omega
  rw [tsHeader_eq, packFields_tsFixedFields _ _ _ (tsAfc_lt_four _ _ _), if_neg h, packFields_tsAdaptationFields]
  exact (BitVec.toNat_ofNat _ 8).trans (Nat.mod_eq_of_lt hlt)

/-- A receiver finds the payload right behind the header. -/
theorem packetPayload_tsHeader_append : packetPayload (tsHeader cc pusi pcr pid disc payload ++ xs) = xs := by
  have hlength := length_tsHeader cc pusi pcr pid disc payload
  rw [tsHeaderLength] at hlength
  rw [packetPayload, packetAfc_tsHeader_append]
  split_ifs at hlength ⊢ with hafc
  · exact List.drop_left' hlength
  · rw [adaptationLength_tsHeader_append _ _ _ _ _ _ _ hafc]
    exact List.drop_left' hlength

end Fields

/-- A packet's payload and what the packet leaves are the data. -/
theorem packetPayload_append_tsPacketRest (cc : Nat) (first : Bool) (pcr : Option Int) (pid : Nat) (data : List Byte) :
    packetPayload (tsPacketOf cc first pcr pid data) ++ tsPacketRest cc first pcr pid data = data := by
  rw [tsPacketOf, packetPayload_tsHeader_append]
  exact List.take_append_drop _ data

/-- A packet takes as much of the data as `packet_count` reckons with (R177). -/
theorem length_tsPacketRest (cc : Nat) (first : Bool) (pcr : Option Int) (pid : Nat) (data : List Byte) :
    (tsPacketRest cc first pcr pid data).length =
      data.length - min (188 - tsHeaderLength pcr.isSome false data.length) data.length := by
  rw [tsPacketRest, List.length_drop, length_tsHeader]

/-- Where there is data, the header leaves room for at least one byte of it. -/
theorem tsHeaderLength_lt_of_pos (needPcr : Bool) {payload : Nat} (h : 0 < payload) :
    tsHeaderLength needPcr false payload < 188 := by
  cases needPcr with
  | true => rw [tsHeaderLength_of_pcr]; omega
  | false =>
    rcases lt_or_ge payload 184 with hshort | hfull
    · rw [tsHeaderLength_of_noPcr (.inl hshort)]; omega
    · rw [tsHeaderLength_of_plain hfull]; decide

/-! ## The loop (R171, R177) -/

/-- Packet `j` is one packet of some of the data: the counter has risen by `j`, and the start flag is gone after the
first. -/
theorem getElem_packets {n cc : Nat} {first : Bool} {pcr : Option Int} {pid : Nat} {data : List Byte} {j : Nat}
    (h : j < (packets n cc first pcr pid data).length) :
    ∃ pcr' data', (packets n cc first pcr pid data)[j] =
      tsPacketOf (cc + j) (first && decide (j = 0)) pcr' pid data' := by
  induction n generalizing cc first pcr data j with
  | zero => exact absurd h (Nat.not_lt_zero j)
  | succ n ih =>
    cases j with
    | zero => exact ⟨pcr, data, by simp [packets]⟩
    | succ j =>
      rw [packets, List.length_cons] at h
      obtain ⟨pcr', data', hpacket⟩ := ih (Nat.lt_of_succ_lt_succ h)
      exact ⟨pcr', data', by simp [packets, hpacket, Nat.add_right_comm, Nat.add_assoc]⟩

/-- As many packets as `packet_count` says carry all the data: each takes a first part of it, and the count goes on
from what that packet leaves. -/
theorem flatten_payloads_packets {fuel : Nat} (cc : Nat) (first : Bool) (pcr : Option Int) (pid : Nat)
    {data : List Byte} (h : data.length ≤ fuel) :
    ((packets (packetCountFrom fuel pcr.isSome data.length) cc first pcr pid data).map packetPayload).flatten =
      data := by
  induction fuel generalizing cc first pcr data with
  | zero => rw [List.eq_nil_of_length_eq_zero (Nat.le_zero.mp h)]; rfl
  | succ fuel ih =>
    by_cases hempty : data.length = 0
    · rw [List.eq_nil_of_length_eq_zero hempty]; rfl
    have hroom := tsHeaderLength_lt_of_pos pcr.isSome (Nat.pos_of_ne_zero hempty)
    have hrest := length_tsPacketRest cc first pcr pid data
    rw [packetCountFrom, if_neg hempty, Nat.add_comm 1, packets, List.map_cons, List.flatten_cons, ← hrest]
    calc packetPayload (tsPacketOf cc first pcr pid data) ++ _
        = packetPayload (tsPacketOf cc first pcr pid data) ++ tsPacketRest cc first pcr pid data :=
          congrArg _ (ih (cc + 1) false none (by omega))
      _ = data := packetPayload_append_tsPacketRest cc first pcr pid data

/-- Settles O31: the loop's packets carry all the data, and each of them is read by its header's fields. -/
theorem packetsCarryTheData : Obligations.PacketsCarryTheData := by
  intro cc pcr pid data n ps
  refine ⟨length_packets _ _ _ _ _ _, flatten_payloads_packets cc true pcr pid le_rfl, fun j h => ?_⟩
  obtain ⟨pcr', data', hpacket⟩ := getElem_packets h
  rw [hpacket]
  refine ⟨length_tsPacketOf _ _ _ _ _, ?_, packetCc_tsHeader_append _ _ _ _ _ _ _,
    packetPid_tsHeader_append _ _ _ _ _ _ _, packetStart_tsHeader_append _ _ _ _ _ _ _⟩
  rw [tsPacketOf, List.head?_append, head?_tsHeader]
  rfl

end Sys2Proof.Machine
end

section

/-! The command `PACK` (44_packetizer.md R178, R179). -/

namespace Sys2Proof.Machine

/-- Where the PCR's time, if one is asked for, has the tick count `k`. -/
theorem pcrRequest_of_ticks {needPcr : Bool} {time : Word64} {k : Int}
    (h : (if needPcr then ticks27M time else some 0) = some k) :
    pcrRequest needPcr time = .ok (if needPcr then some k else none) := by
  cases needPcr with
  | false => rfl
  | true =>
    have hk : ticks27M time = some k := h
    simp [pcrRequest, hk]

/-! ## Packetizing a frame (R171) -/

section Packetize
variable {t : TrackId} {src size sid pid : Nat} {pts dts : Word64} {isPcr : Bool} {s : State}

theorem packetize_pesRange (h : ticks90 s.bias pts = none ∨ ticks90 s.bias dts = none) :
    packetize t src size pts dts sid pid isPcr s = .err .range := by
  rw [packetize, pesTicks_of_none h, Result.bind_err]

variable {p d : Int} (hp : ticks90 s.bias pts = some p) (hd : ticks90 s.bias dts = some d)
include hp hd

theorem packetize_pcrRange (h : (if isPcr then ticks27M dts else some 0) = none) :
    packetize t src size pts dts sid pid isPcr s = .err .range := by
  have hpcr : isPcr = true ∧ ticks27M dts = none := by
    cases isPcr with
    | false => cases h
    | true => exact ⟨rfl, h⟩
  rw [packetize, pesTicks_of_some hp hd, Result.bind_ok, pcrRequest_of_none hpcr, Result.bind_err]

variable {pcr : Option Int} (hpcr : pcrRequest isPcr dts = .ok pcr) (hsrc : src + size ≤ Config.memSize)
  {data : List Byte} (hdata : data = pesHeader size p d sid ++ s.mem.readBytes src size)
include hpcr hsrc hdata

theorem packetize_overflow (hcap : s.outCap.toNat < s.outWr.toNat + 188 * packetCount data.length isPcr) :
    packetize t src size pts dts sid pid isPcr s = .err .overflow := by
  simp only [packetize, pesTicks_of_some hp hd, hpcr, State.load_of_le s hsrc, Result.bind_ok, ← hdata]
  exact if_pos hcap

theorem packetize_emits (hcap : s.outWr.toNat + 188 * packetCount data.length isPcr ≤ s.outCap.toNat) :
    packetize t src size pts dts sid pid isPcr s =
      (s.emitPackets t (packets (packetCount data.length isPcr) (s.track t).cc.toNat true pcr pid data)).bind
        fun u => .ok (u, packetCount data.length isPcr) := by
  simp only [packetize, pesTicks_of_some hp hd, hpcr, State.load_of_le s hsrc, Result.bind_ok, ← hdata]
  exact if_neg (not_lt.mpr hcap)

end Packetize

/-- Packets that end inside `M` are stored at the output position, which moves behind them (R171, R175). -/
theorem emitPackets_of_le {t : TrackId} {n cc pid : Nat} {first : Bool} {pcr : Option Int} {data : List Byte}
    {s : State} (h : s.outBase.toNat + s.outWr.toNat + 188 * n ≤ Config.memSize) :
    s.emitPackets t (packets n cc first pcr pid data) =
      .ok (State.setTrack
        { s with mem := s.mem.writeBytes (s.outBase.toNat + s.outWr.toNat)
                   (packets n cc first pcr pid data).flatten
                 outWr := BitVec.ofNat 32 (s.outWr.toNat + 188 * n)
                 outPkts := BitVec.ofNat 32 (s.outPkts.toNat + n) }
        t { s.track t with cc := BitVec.ofNat 4 ((s.track t).cc.toNat + n) }) := by
  rw [State.emitPackets, State.store_of_le s (by rwa [length_flatten_packets]), Result.bind_ok, length_packets]

/-! ## The command (R178) -/

/-- The operand check of the command: a region of `M`, and finite timestamps. -/
theorem packOperands_iff (src size pts dts : Word64) :
    (regionOk src size && finite pts && finite dts) = true ↔
      ¬ (2 ^ 32 ≤ src.toNat ∨ 2 ^ 32 ≤ size.toNat ∨ 2 ^ 32 < src.toNat + size.toNat) ∧
        ¬ (finite pts = false ∨ finite dts = false) := by
  rw [Bool.and_eq_true, Bool.and_eq_true, regionOk_iff, Config.memSize, not_or (p := finite pts = false),
    Bool.not_eq_false, Bool.not_eq_false, and_assoc]
  refine and_congr_left fun _ => ?_
  omega

section Command
variable {pcr track : Bool} {src size pts dts sid pid : Word64} {s : State}

theorem execPack_notReady (h : s.session ≠ .ready) :
    execPack pcr track src size pts dts sid pid s = .next (s.raiseError .state) := by
  rw [execPack, if_pos h]
  rfl

variable (hready : s.session = .ready)
include hready

theorem execPack_operandRange (h : (regionOk src size && finite pts && finite dts) = false) :
    execPack pcr track src size pts dts sid pid s = .next (s.raiseError .range) := by
  rw [execPack, if_neg (not_not.mpr hready), h]
  rfl

variable (hok : (regionOk src size && finite pts && finite dts) = true)
include hok

theorem execPack_of_err {e : ErrCode}
    (h : packetize (.ofBit track) src.toNat size.toNat pts dts (lowBits 8 sid) (lowBits 13 pid) pcr s = .err e) :
    execPack pcr track src size pts dts sid pid s = .next (s.raiseError e) := by
  rw [execPack, if_neg (not_not.mpr hready), if_neg (by simpa using hok), h, conclude_err]

theorem execPack_of_ok {u : State} {n : Nat}
    (h : packetize (.ofBit track) src.toNat size.toNat pts dts (lowBits 8 sid) (lowBits 13 pid) pcr s = .ok (u, n))
    (hoverlap : packOverlap src.toNat size.toNat n s = false) :
    execPack pcr track src size pts dts sid pid s =
      .next (State.complete { u with outValid := false, bwValid := false } (BitVec.ofNat 64 n)
        (u.outWr.setWidth 64)) := by
  rw [execPack, if_neg (not_not.mpr hready), if_neg (by simpa using hok), h, conclude_ok, hoverlap]
  rfl

variable {p d : Int} (hp : ticks90 s.bias pts = some p) (hd : ticks90 s.bias dts = some d)
include hp hd

theorem execPack_stores {request : Option Int} {data : List Byte} {n : Nat}
    (hpcr : pcrRequest pcr dts = .ok request)
    (hdata : data = pesHeader size.toNat p d (lowBits 8 sid) ++ s.mem.readBytes src.toNat size.toNat)
    (hn : n = packetCount data.length pcr)
    (hcap : s.outWr.toNat + 188 * n ≤ s.outCap.toNat)
    (hregion : s.outBase.toNat + s.outCap.toNat ≤ Config.memSize)
    (hoverlap : packOverlap src.toNat size.toNat n s = false) :
    execPack pcr track src size pts dts sid pid s =
      .next (State.setTrack
        { s with mem := s.mem.writeBytes (s.outBase.toNat + s.outWr.toNat)
                   (packets n (s.track (.ofBit track)).cc.toNat true request (lowBits 13 pid) data).flatten
                 outWr := BitVec.ofNat 32 (s.outWr.toNat + 188 * n)
                 outPkts := BitVec.ofNat 32 (s.outPkts.toNat + n)
                 outValid := false, bwValid := false, err := .ok
                 res0 := BitVec.ofNat 64 n, res1 := BitVec.ofNat 64 (s.outWr.toNat + 188 * n) }
        (.ofBit track)
        { s.track (.ofBit track) with cc := BitVec.ofNat 4 ((s.track (.ofBit track)).cc.toNat + n) }) := by
  obtain ⟨⟨hsource, -⟩, -⟩ := by simpa only [Bool.and_eq_true] using hok
  obtain ⟨_, _, hsrc⟩ := (regionOk_iff src size).mp hsource
  have hwr : (BitVec.ofNat 32 (s.outWr.toNat + 188 * n)).setWidth 64 =
      BitVec.ofNat 64 (s.outWr.toNat + 188 * n) := by
    have hmax := s.outCap.isLt
    exact BitVec.setWidth_ofNat_of_le_of_lt (by decide) (by omega)
  have hpacketize := packetize_emits (t := .ofBit track) (pid := lowBits 13 pid) hp hd hpcr hsrc hdata (hn ▸ hcap)
  rw [← hn, emitPackets_of_le (by omega), Result.bind_ok] at hpacketize
  rw [execPack_of_ok hready hok hpacketize hoverlap, State.setTrack_outWr, hwr]
  cases track <;> rfl

end Command

/-- Settles O32: the gates of the command and of the procedure in their order, and else one store of the packets. -/
theorem packStoresTheFramesPackets : Obligations.PackStoresTheFramesPackets := by
  refine ⟨fun pcr track src size pts dts sid pid =>
      congrArg (fun f => [PortWord.header (headerWord 0x12#8 f), .operand src, .operand size, .operand pts,
        .operand dts, .operand sid, .operand pid]) (flagBits_eq pcr track false),
    fun pcr track src size pts dts sid pid s => ?_⟩
  have hgate := packOperands_iff src size pts dts
  by_cases hstate : s.session ≠ .ready
  · rw [if_pos hstate]
    exact execPack_notReady hstate
  rw [if_neg hstate]
  have hready := not_not.mp hstate
  by_cases hrange : 2 ^ 32 ≤ src.toNat ∨ 2 ^ 32 ≤ size.toNat ∨ 2 ^ 32 < src.toNat + size.toNat
  · rw [if_pos hrange]
    exact execPack_operandRange hready (Bool.eq_false_iff.mpr fun hok => (hgate.mp hok).1 hrange)
  rw [if_neg hrange]
  by_cases hfinite : finite pts = false ∨ finite dts = false
  · rw [if_pos hfinite]
    exact execPack_operandRange hready (Bool.eq_false_iff.mpr fun hok => (hgate.mp hok).2 hfinite)
  rw [if_neg hfinite]
  have hok := hgate.mpr ⟨hrange, hfinite⟩
  cases hp : ticks90 s.bias pts with
  | none => exact execPack_of_err hready hok (packetize_pesRange (.inl hp))
  | some p =>
  cases hd : ticks90 s.bias dts with
  | none => exact execPack_of_err hready hok (packetize_pesRange (.inr hd))
  | some d =>
  cases hk : (if pcr then ticks27M dts else some 0) with
  | none => exact execPack_of_err hready hok (packetize_pcrRange hp hd hk)
  | some k =>
    dsimp -zeta only
    intro data n tr
    have hsrc : src.toNat + size.toNat ≤ Config.memSize := by rw [Config.memSize]; omega
    have hpcr := pcrRequest_of_ticks hk
    by_cases hcap : s.outCap.toNat < s.outWr.toNat + 188 * n
    · rw [if_pos hcap]
      exact execPack_of_err hready hok (packetize_overflow hp hd hpcr hsrc rfl hcap)
    rw [if_neg hcap]
    intro hregion hoverlap
    have hexec := execPack_stores (track := track) (pid := pid) (data := data) (n := n) hready hok hp hd hpcr rfl rfl
      (not_lt.mp hcap) hregion hoverlap
    refine ⟨_, hexec, ?_, ?_⟩ <;> rw [State.setTrack_mem]
    · exact s.mem.stored_writeBytes _ _

end Sys2Proof.Machine
end

section

/-! The program tables (45_psi_tables.md): the bytes of the sections and of their packets, and the commands `PAT` and
`PMT`. -/

namespace Sys2Proof.Machine

/-! ## A table packet (R185, R187, R193) -/

/-- A table packet's header has no adaptation field: its section may take the whole payload. -/
theorem tsHeader_of_table (counter pid : Nat) :
    tsHeader counter true none pid false Config.tsPayloadMax =
      [0x47#8, BitVec.ofNat 8 (0x40 + pid % 8192 / 256), BitVec.ofNat 8 (pid % 256),
       BitVec.ofNat 8 (0x10 + counter % 16)] := by
  have hafc : tsAfc (none : Option Int).isSome false Config.tsPayloadMax = 1 := rfl
  rw [tsHeader_eq, hafc, if_pos rfl, List.append_nil, packFields_tsFixedFields _ _ _ (by decide)]
  rfl

theorem tablePacket_eq (counter pid : Nat) (body : List Byte) :
    tablePacket counter pid body =
      [0x47#8, BitVec.ofNat 8 (0x40 + pid % 8192 / 256), BitVec.ofNat 8 (pid % 256),
       BitVec.ofNat 8 (0x10 + counter % 16), 0x00#8] ++ body ++ beBytes 4 (crcMpeg crcSeed body).toNat ++
        List.replicate (179 - body.length) 0xFF#8 := by
  have hsection := drop_tablePacket counter pid body
  rw [tablePacket, tsHeader_of_table] at hsection ⊢
  simpa using hsection

/-- Another counter changes the fourth byte and no other. -/
theorem tablePacket_eq_set (a b pid : Nat) (body : List Byte) :
    tablePacket a pid body = (tablePacket b pid body).set 3 (BitVec.ofNat 8 (0x10 + a % 16)) := by
  rw [tablePacket_eq, tablePacket_eq]
  rfl

theorem getElem?_tablePacket_of_ne {i : Nat} (hi : i ≠ 3) (a b pid : Nat) (body : List Byte) :
    (tablePacket a pid body)[i]? = (tablePacket b pid body)[i]? := by
  rw [tablePacket_eq_set a b, List.getElem?_set_ne hi.symm]

/-- The upper four bits beside the counter say that the packet has a payload and no adaptation field. -/
theorem counterByte_tablePacket (counter pid : Nat) (body : List Byte) :
    ((tablePacket counter pid body).getD 3 0#8).toNat / 16 = 1 := by
  have hbyte : (tablePacket counter pid body).getD 3 0#8 = BitVec.ofNat 8 (0x10 + counter % 16) := by
    rw [tablePacket_eq]
    rfl
  rw [hbyte, BitVec.toNat_ofNat]
  omega

/-! ## The PAT (R186, R187) -/

theorem fieldsWidth_patFields (s : State) : fieldsWidth (patFields s) = 96 := by simp [patFields, fieldsWidth]

theorem packFields_patFields (s : State) :
    packFields (patFields s) =
      [0x00#8, 0xB0#8, 0x0D#8, BitVec.ofNat 8 (s.tsid.toNat / 256), BitVec.ofNat 8 (s.tsid.toNat % 256), 0xC1#8,
       0x00#8, 0x00#8, 0x00#8, 0x01#8, BitVec.ofNat 8 (0xE0 + s.pmtPid.toNat / 256),
       BitVec.ofNat 8 (s.pmtPid.toNat % 256)] := by
  have htsid := s.tsid.isLt
  have hpid := s.pmtPid.isLt
  apply packFields_of_value (fieldsWidth_patFields s)
  simp only [patFields, fieldsValue, Config.programNumber, bytesValue, List.foldl_cons, List.foldl_nil,
    BitVec.toNat_ofNat]
  omega

theorem patPacket_eq (s : State) (counter : Nat) :
    patPacket s counter =
      [0x47#8, 0x40#8, 0x00#8, BitVec.ofNat 8 (0x10 + counter % 16), 0x00#8] ++ packFields (patFields s) ++
        beBytes 4 (crcMpeg crcSeed (packFields (patFields s))).toNat ++ List.replicate 167 0xFF#8 := by
  rw [patPacket, tablePacket_eq, length_patSection]
  rfl

/-- Settles O33: the section's fields, put into the table packet. -/
theorem patPacketBytes : Obligations.PatPacketBytes := by
  intro s counter
  dsimp only
  rw [← packFields_patFields]
  exact ⟨patPacket_eq s counter, length_patPacket s counter⟩

/-! ## The PMT (R190 to R193) -/

/-- What stands before the tracks in a PMT section: the head of `pmtFields`. -/
def pmtHeadFields (s : State) : List BitField := (pmtFields s).take 15

theorem pmtFields_eq (s : State) : pmtFields s = pmtHeadFields s ++ (pmtEntry s .audio ++ pmtEntry s .video) := rfl

theorem fieldsWidth_pmtHeadFields (s : State) : fieldsWidth (pmtHeadFields s) = 96 := by
  simp [pmtHeadFields, pmtFields, fieldsWidth]

theorem packFields_pmtEntry (s : State) (t : TrackId) (hpid : s.pidOf t < 2 ^ 13) :
    packFields (pmtEntry s t) =
      [(s.track t).codec, BitVec.ofNat 8 (0xE0 + s.pidOf t / 256), BitVec.ofNat 8 (s.pidOf t % 256), 0xF0#8,
       0x00#8] := by
  have hcodec := (s.track t).codec.isLt
  apply packFields_of_value rfl
  simp only [pmtEntry, State.codecOf, fieldsValue, bytesValue, List.foldl_cons, List.foldl_nil, BitVec.toNat_ofNat]
  omega

theorem packFields_pmtHeadFields (s : State) (hpid : s.pidOf .video < 2 ^ 13) :
    packFields (pmtHeadFields s) =
      [0x02#8, 0xB0#8, 0x17#8, 0x00#8, 0x01#8, 0xC1#8, 0x00#8, 0x00#8, BitVec.ofNat 8 (0xE0 + s.pidOf .video / 256),
       BitVec.ofNat 8 (s.pidOf .video % 256), 0xF0#8, 0x00#8] := by
  apply packFields_of_value (fieldsWidth_pmtHeadFields s)
  simp only [pmtHeadFields, pmtFields, List.cons_append, List.take_succ_cons, List.take_zero, fieldsValue,
    Config.programNumber, Config.nTracks, bytesValue, List.foldl_cons, List.foldl_nil, BitVec.toNat_ofNat]
  omega

theorem packFields_pmtFields (s : State) :
    packFields (pmtFields s) =
      packFields (pmtHeadFields s) ++ (packFields (pmtEntry s .audio) ++ packFields (pmtEntry s .video)) := by
  have hhead : 8 ∣ fieldsWidth (pmtHeadFields s) := ⟨12, fieldsWidth_pmtHeadFields s⟩
  have hentry (t : TrackId) : 8 ∣ fieldsWidth (pmtEntry s t) := ⟨5, rfl⟩
  have hentries : 8 ∣ fieldsWidth (pmtEntry s .audio ++ pmtEntry s .video) := ⟨10, rfl⟩
  rw [pmtFields_eq, packFields_append hhead hentries, packFields_append (hentry _) (hentry _)]

theorem pmtPacket_eq (s : State) (counter : Nat) :
    pmtPacket s counter =
      [0x47#8, BitVec.ofNat 8 (0x40 + s.pmtPid.toNat / 256), BitVec.ofNat 8 (s.pmtPid.toNat % 256),
       BitVec.ofNat 8 (0x10 + counter % 16), 0x00#8] ++ packFields (pmtFields s) ++
        beBytes 4 (crcMpeg crcSeed (packFields (pmtFields s))).toNat ++ List.replicate 157 0xFF#8 := by
  have hpid : s.pmtPid.toNat % 8192 = s.pmtPid.toNat := Nat.mod_eq_of_lt s.pmtPid.isLt
  rw [pmtPacket, tablePacket_eq, length_pmtSection, hpid]

/-- Settles O34: the bound on `PMT_PID` keeps both tracks' PIDs inside their 13 bits. -/
theorem pmtPacketBytes : Obligations.PmtPacketBytes := by
  intro s counter hpid
  have haudio : s.pidOf .audio = s.pmtPid.toNat + 1 := rfl
  have hvideo : s.pidOf .video = s.pmtPid.toNat + 2 := rfl
  have hsection := packFields_pmtFields s
  rw [packFields_pmtHeadFields s (by omega), packFields_pmtEntry s .audio (by omega),
    packFields_pmtEntry s .video (by omega), haudio, hvideo] at hsection
  refine ⟨?_, length_pmtPacket s counter⟩
  rw [pmtPacket_eq, hsection]
  rfl

/-! ## Two counters (R195) -/

/-- A receiver takes a PID from two bytes, the low five bits of the first and the whole second. -/
theorem pidField_toNat {pid : Nat} (h : pid < 2 ^ 13) :
    (BitVec.ofNat 8 (0xE0 + pid / 256)).toNat % 32 * 256 + (BitVec.ofNat 8 (pid % 256)).toNat = pid := by
  rw [BitVec.toNat_ofNat, BitVec.toNat_ofNat]
  omega

/-- Settles O36: the two counters stand in the fourth byte alone, and the PAT's program stands at fixed places. -/
theorem tablesDifferOnlyInTheCounter : Obligations.TablesDifferOnlyInTheCounter := by
  intro s a b
  refine ⟨fun i hi => ⟨getElem?_tablePacket_of_ne hi a b _ _, getElem?_tablePacket_of_ne hi a b _ _⟩,
    (counterByte_tablePacket a _ _).trans (counterByte_tablePacket b _ _).symm,
    (counterByte_tablePacket a _ _).trans (counterByte_tablePacket b _ _).symm, ?_, ?_⟩
  · rw [patPacket_eq, packFields_patFields]
    rfl
  · rw [patPacket_eq, packFields_patFields]
    exact pidField_toNat s.pmtPid.isLt

/-! ## The commands (R189, R194) -/

theorem encode_pat (dst counter : Word64) :
    encode (.pat dst counter) = [.header 0x00000018#32, .operand dst, .operand counter] := by
  have hheader : headerWord 0x18#8 0x00#8 = 0x00000018#32 := by decide
  exact congrArg (fun w => [PortWord.header w, .operand dst, .operand counter]) hheader

theorem encode_pmt (dst counter : Word64) :
    encode (.pmt dst counter) = [.header 0x00000019#32, .operand dst, .operand counter] := by
  have hheader : headerWord 0x19#8 0x00#8 = 0x00000019#32 := by decide
  exact congrArg (fun w => [PortWord.header w, .operand dst, .operand counter]) hheader

section Command
variable {dst : Word64} {packet : List Byte} {s : State}

theorem writeTable_range (h : packetRoomOk dst = false) : writeTable dst packet s = .next (s.raiseError .range) := by
  rw [writeTable, h]
  rfl

theorem writeTable_stores (hroom : packetRoomOk dst = true) (htouch : s.touchesSession dst.toNat 188 = false)
    (hlength : packet.length = 188) :
    ∃ t, writeTable dst packet s = .next t ∧ Memory.Stored s.mem t.mem dst.toNat packet ∧
      t = { s with mem := t.mem, bwValid := false, err := .ok, res0 := 188#64, res1 := 0#64 } := by
  obtain ⟨_, hmem⟩ := (packetRoomOk_iff dst).mp hroom
  have hstore := conclude_store_succeeds (s := s) (bs := packet) 188#64 0#64 (by rwa [hlength])
  rw [writeTable, hroom, Config.tsPacket, htouch]
  exact ⟨_, hstore, s.mem.stored_writeBytes _ packet, rfl⟩

end Command

/-- Settles O35: `writeTable` for the two packets, each of 188 bytes. -/
theorem patAndPmtStoreTheirPackets : Obligations.PatAndPmtStoreTheirPackets := by
  refine ⟨fun dst counter => ⟨encode_pat dst counter, encode_pmt dst counter⟩, fun dst counter s => ?_⟩
  have hgate : packetRoomOk dst = true ↔ ¬ (2 ^ 32 ≤ dst.toNat ∨ 2 ^ 32 < dst.toNat + 188) := by
    rw [packetRoomOk_iff, Config.memSize]
    omega
  by_cases hrange : 2 ^ 32 ≤ dst.toNat ∨ 2 ^ 32 < dst.toNat + 188
  · rw [if_pos hrange]
    have hroom : packetRoomOk dst = false := Bool.eq_false_iff.mpr fun hok => hgate.mp hok hrange
    exact ⟨writeTable_range hroom, writeTable_range hroom⟩
  · rw [if_neg hrange]
    intro htouch
    have hroom := hgate.mpr hrange
    exact ⟨writeTable_stores hroom htouch (length_patPacket s _),
      writeTable_stores hroom htouch (length_pmtPacket s _)⟩

end Sys2Proof.Machine
end

section

/-! A remux pass from outside: the phases one after the other, what a whole pass never changes, and the two ways in
which `REMUX` ends (46_selector.md R207 to R216). -/

namespace Sys2Proof.Machine

/-! ## Phases in sequence (R215) -/

theorem Pass.ofResult_eq_done {s u : State} {r : Result State} : Pass.ofResult s r = .done u ↔ r = .ok u := by
  cases r <;> simp

theorem Pass.ofResult_eq_failed {s u : State} {r : Result State} {e : ErrCode} :
    Pass.ofResult s r = .failed e u ↔ r = .err e ∧ s = u := by
  cases r <;> simp

theorem Pass.andThen_eq_done {p : Pass} {k : State → Pass} {u : State} :
    p.andThen k = .done u ↔ ∃ v, p = .done v ∧ k v = .done u := by
  cases p <;> simp

theorem Pass.andThen_eq_failed {p : Pass} {k : State → Pass} {e : ErrCode} {u : State} :
    p.andThen k = .failed e u ↔ p = .failed e u ∨ ∃ v, p = .done v ∧ k v = .failed e u := by
  cases p <;> simp

/-- A pass succeeds exactly when each of its phases does. -/
theorem remuxPass_eq_done {s u : State} :
    remuxPass s = .done u ↔ ∃ tables lead last : State,
      remuxTables (s.releaseOutput.inPhase .tables) = .ok tables ∧ remuxLead (tables.inPhase .lead) = .ok lead ∧
      selectLoop (lead.framesLeft .video + lead.framesLeft .audio) (lead.inPhase .select) = .done last ∧
      u = last.inPhase .done := by
  simp only [remuxPass, Pass.andThen_eq_done, Pass.ofResult_eq_done, Pass.done.injEq]
  constructor
  · rintro ⟨tables, htables, lead, hlead, last, hlast, rfl⟩
    exact ⟨tables, lead, last, htables, hlead, hlast, rfl⟩
  · rintro ⟨tables, lead, last, htables, hlead, hlast, rfl⟩
    exact ⟨tables, htables, lead, hlead, last, hlast, rfl⟩

/-- A selection phase fails in a turn, at the state before that turn. -/
theorem selectLoop_failed {fuel : Nat} {s u : State} {e : ErrCode} (h : selectLoop fuel s = .failed e u) :
    ∃ t, mux t u = .err e := by
  induction fuel generalizing s with
  | zero =>
    rw [selectLoop] at h
    split at h <;> cases h
  | succ fuel ih =>
    rw [selectLoop] at h
    split at h
    · cases h
    · next t _ =>
      rcases Pass.andThen_eq_failed.mp h with hmux | ⟨v, _, hloop⟩
      · obtain ⟨herr, rfl⟩ := Pass.ofResult_eq_failed.mp hmux
        exact ⟨t, herr⟩
      · exact ih hloop

/-- A pass fails in the tables or in a turn. -/
theorem remuxPass_failed {s u : State} {e : ErrCode} (h : remuxPass s = .failed e u) :
    (∃ v, remuxTables v = .err e) ∨ ∃ t v, mux t v = .err e := by
  rcases Pass.andThen_eq_failed.mp h with htables | ⟨s1, _, h⟩
  · exact .inl ⟨_, (Pass.ofResult_eq_failed.mp htables).1⟩
  rcases Pass.andThen_eq_failed.mp h with hlead | ⟨s2, _, h⟩
  · have herr := (Pass.ofResult_eq_failed.mp hlead).1
    unfold remuxLead at herr
    split_ifs at herr
    exact .inr ⟨.video, _, herr⟩
  · rcases Pass.andThen_eq_failed.mp h with hloop | ⟨s3, _, h⟩
    · obtain ⟨t, herr⟩ := selectLoop_failed hloop
      exact .inr ⟨t, u, herr⟩
    · cases h

/-! ## The errors of a pass (R214) -/

theorem State.load_not_err (s : State) (a n : Nat) (e : ErrCode) : s.load a n ≠ .err e := by
  rcases s.load_cases a n with ⟨_, h⟩ | ⟨_, h⟩ <;> simp [h]

theorem Result.ofOption_eq_err {α : Type} {e e' : ErrCode} {o : Option α} (h : Result.ofOption e o = .err e') :
    e' = e := by
  cases o with
  | none => exact (Result.err.inj h).symm
  | some a => cases h

theorem pesTicks_err {bias pts dts : Word64} {e : ErrCode} (h : pesTicks bias pts dts = .err e) : e = .range := by
  rcases Result.bind_eq_err.mp h with h | ⟨p, _, h⟩
  · exact Result.ofOption_eq_err h
  rcases Result.bind_eq_err.mp h with h | ⟨d, _, h⟩
  · exact Result.ofOption_eq_err h
  · cases h

theorem pcrRequest_err {needPcr : Bool} {time : Word64} {e : ErrCode} (h : pcrRequest needPcr time = .err e) :
    e = .range := by
  cases needPcr with
  | false => cases h
  | true =>
    rcases Result.bind_eq_err.mp h with h | ⟨p, _, h⟩
    · exact Result.ofOption_eq_err h
    · cases h

theorem State.emitPackets_not_err (s : State) (t : TrackId) (ps : List (List Byte)) (e : ErrCode) :
    s.emitPackets t ps ≠ .err e := by
  intro h
  rcases Result.bind_eq_err.mp h with h | ⟨u, _, h⟩
  · exact s.store_not_err _ _ e h
  · cases h

theorem packetize_err {t : TrackId} {src size sid pid : Nat} {pts dts : Word64} {isPcr : Bool} {s : State}
    {e : ErrCode} (h : packetize t src size pts dts sid pid isPcr s = .err e) : e = .overflow ∨ e = .range := by
  rcases Result.bind_eq_err.mp h with h | ⟨ticks, _, h⟩
  · exact .inr (pesTicks_err h)
  rcases Result.bind_eq_err.mp h with h | ⟨pcr, _, h⟩
  · exact .inr (pcrRequest_err h)
  rcases Result.bind_eq_err.mp h with h | ⟨frame, _, h⟩
  · exact absurd h (s.load_not_err _ _ e)
  dsimp only at h
  split_ifs at h
  · exact .inl (Result.err.inj h).symm
  · rcases Result.bind_eq_err.mp h with h | ⟨u, _, h⟩
    · exact absurd h (s.emitPackets_not_err _ _ e)
    · cases h

theorem mux_err {t : TrackId} {s : State} {e : ErrCode} (h : mux t s = .err e) : e = .overflow ∨ e = .range := by
  rcases Result.bind_eq_err.mp h with h | ⟨r, _, h⟩
  · exact packetize_err h
  · cases h

theorem remuxTables_err {s : State} {e : ErrCode} (h : remuxTables s = .err e) : e = .overflow := by
  unfold remuxTables at h
  split_ifs at h
  · exact (Result.err.inj h).symm
  rcases Result.bind_eq_err.mp h with h | ⟨s1, _, h⟩
  · exact absurd h (s.store_not_err _ _ e)
  rcases Result.bind_eq_err.mp h with h | ⟨s2, _, h⟩
  · exact absurd h (s1.store_not_err _ _ e)
  · cases h

theorem remuxPass_err {s u : State} {e : ErrCode} (h : remuxPass s = .failed e u) : e = .overflow ∨ e = .range := by
  rcases remuxPass_failed h with ⟨v, herr⟩ | ⟨t, v, herr⟩
  · exact .inl (remuxTables_err herr)
  · exact mux_err herr

/-- An output region too small for the tables ends a pass at once (R207). -/
theorem remuxPass_of_small {s : State} (h : s.outCap.toNat < 376) :
    remuxPass s = .failed .overflow (s.releaseOutput.inPhase .tables) := by
  have htables : remuxTables (s.releaseOutput.inPhase .tables) = .err .overflow := if_pos h
  simp [remuxPass, htables]

/-! ## What a pass never changes (R216) -/

/-- A track with the fields blanked that a turn may change. -/
def TrackState.outsidePass (tr : TrackState) : TrackState :=
  { tr with framesWritten := 0#32, rdCur := 0#32, cc := 0#4 }

/-- A state with the fields blanked that a pass may change before its end: two states agree in every other field
exactly when these are equal. -/
def State.outsidePass (s : State) : State :=
  { s with mem := [], video := s.video.outsidePass, audio := s.audio.outsidePass, psiCc := 0#4, outWr := 0#32
           outPkts := 0#32, outValid := false, phase := .idle }

theorem TrackState.eq_of_outsidePass {a b : TrackState} (h : b.outsidePass = a.outsidePass) :
    b = { a with framesWritten := b.framesWritten, rdCur := b.rdCur, cc := b.cc } := by
  cases a
  cases b
  simpa [TrackState.outsidePass] using h

theorem State.track_outsidePass (s : State) (t : TrackId) : s.outsidePass.track t = (s.track t).outsidePass := by
  cases t <;> rfl

theorem State.track_eq_of_outsidePass {s u : State} (h : u.outsidePass = s.outsidePass) (t : TrackId) :
    u.track t = { s.track t with framesWritten := (u.track t).framesWritten, rdCur := (u.track t).rdCur
                                 cc := (u.track t).cc } := by
  have ht := congrArg (State.track · t) h
  simp only [State.track_outsidePass] at ht
  exact TrackState.eq_of_outsidePass ht

theorem State.eq_of_outsidePass {s u : State} (h : u.outsidePass = s.outsidePass) :
    u = { s with mem := u.mem, video := u.video, audio := u.audio, psiCc := u.psiCc, outWr := u.outWr
                 outPkts := u.outPkts, outValid := u.outValid, phase := u.phase } := by
  cases s
  cases u
  simp only [State.outsidePass, State.mk.injEq] at h ⊢
  simp [h]

theorem remuxTables_outsidePass {s u : State} (h : remuxTables s = .ok u) : u.outsidePass = s.outsidePass := by
  obtain ⟨m, _, _, rfl⟩ := remuxTables_step h
  rfl

theorem mux_outsidePass {t : TrackId} {s u : State} (h : mux t s = .ok u) : u.outsidePass = s.outsidePass := by
  obtain ⟨v, n, hpack, rfl⟩ := mux_ok h
  obtain ⟨m, cc, _, _, rfl⟩ := packetize_step hpack
  cases t <;> rfl

theorem mux_outWr_le {t : TrackId} {s u : State} (h : mux t s = .ok u) : u.outWr.toNat ≤ u.outCap.toNat := by
  obtain ⟨v, n, hpack, rfl⟩ := mux_ok h
  obtain ⟨m, cc, _, hcap, rfl⟩ := packetize_step hpack
  simp only [State.setTrack_outWr, State.setTrack_outCap, BitVec.toNat_ofNat]
  exact (Nat.mod_le _ _).trans hcap

theorem remuxPass_outsidePass (s : State) : (remuxPass s).Ends fun u => u.outsidePass = s.outsidePass :=
  remuxPass_ends (fun _ _ hu => hu) (fun _ _ hs hu => (remuxTables_outsidePass hu).trans hs)
    (fun _ _ _ hs _ hu => (mux_outsidePass hu).trans hs) rfl

theorem remuxPass_outWr_le (s : State) : (remuxPass s).Ends fun u => u.outWr.toNat ≤ u.outCap.toNat := by
  refine remuxPass_ends_of_tables (fun _ _ hu => hu) (fun _ _ _ _ _ hv => mux_outWr_le hv) (Nat.zero_le _)
    fun u hu => ?_
  obtain ⟨m, _, hcap, rfl⟩ := remuxTables_step hu
  exact hcap

theorem Pass.Ends.and {P Q : State → Prop} {p : Pass} (hP : p.Ends P) (hQ : p.Ends Q) :
    p.Ends fun u => P u ∧ Q u := by
  cases p with
  | done u => exact ⟨hP, hQ⟩
  | failed e u => exact ⟨hP, hQ⟩
  | fault f => trivial

theorem Pass.Ends.imp {P Q : State → Prop} {p : Pass} (hP : p.Ends P) (h : ∀ u, P u → Q u) : p.Ends Q := by
  cases p with
  | done u => exact h u hP
  | failed e u => exact h u hP
  | fault f => trivial

/-- A pass stores below its own `OUT_WR`, which stays within `OUT_CAP`. -/
theorem remuxPass_frame (s : State) : (remuxPass s).Ends fun u =>
    Memory.SameOutside s.mem u.mem s.outBase.toNat s.outCap.toNat ∧ u.outsidePass = s.outsidePass := by
  refine ((remuxPass_storesOutput s).and ((remuxPass_outsidePass s).and (remuxPass_outWr_le s))).imp ?_
  rintro u ⟨⟨_, hstores⟩, hsame, hle⟩
  have hcap : u.outCap = s.outCap := by rw [State.eq_of_outsidePass hsame]
  rw [hcap] at hle
  exact ⟨(hstores.mono le_rfl (Nat.add_le_add_left hle _)).2, hsame⟩

/-! ## The command (R213, R214) -/

theorem exec_remux (s : State) : exec .remux s = execRemux s := rfl

theorem encode_remux : encode .remux = [.header 0x00000020#32] := by
  have hheader : headerWord 0x20#8 0x00#8 = 0x00000020#32 := by decide
  exact congrArg (fun w => [PortWord.header w]) hheader

theorem remuxGate_of_ready {s : State} (hready : s.session = .ready)
    (hlead : s.video.repeatSeg = true ∨ s.audio.repeatSeg = true →
      s.video.firstFrame.toNat < s.video.nFrames.toNat) : s.remuxGate = true := by
  simpa [State.remuxGate, hready, imp_iff_not_or] using hlead

theorem session_of_remuxGate {s : State} (h : s.remuxGate = true) : s.session = .ready := by
  rw [State.remuxGate, Bool.and_eq_true, decide_eq_true_iff] at h
  exact h.1

theorem execRemux_of_done {s u : State} (hgate : s.remuxGate = true) (h : remuxPass s = .done u) :
    exec .remux s = remuxDone u := by
  simp [exec_remux, execRemux, hgate, h]

theorem execRemux_of_failed {s u : State} {e : ErrCode} (hgate : s.remuxGate = true)
    (h : remuxPass s = .failed e u) : exec .remux s = remuxFailed e u := by
  simp [exec_remux, execRemux, hgate, h]

/-- A `REMUX` without an error has passed its gate and its pass is done: a pass never fails with the code of
success. -/
theorem execRemux_ok {s t : State} (h : exec .remux s = .next t) (hok : t.err = .ok) :
    s.remuxGate = true ∧ ∃ u, remuxPass s = .done u ∧ remuxDone u = .next t := by
  have hgate : s.remuxGate = true := by
    by_contra hclosed
    rw [exec_remux, execRemux, if_pos (by simpa using hclosed)] at h
    obtain rfl := raise_next h
    cases hok
  refine ⟨hgate, ?_⟩
  cases hpass : remuxPass s with
  | done u => exact ⟨u, rfl, execRemux_of_done hgate hpass ▸ h⟩
  | failed e u =>
    obtain rfl := raise_next (execRemux_of_failed hgate hpass ▸ h)
    obtain rfl : e = .ok := hok
    exact absurd hpass (remuxPass_properError s u)
  | fault f => simp [exec_remux, execRemux, hgate, hpass] at h

/-- A `REMUX` past its gate that reports an error ends a failed pass. -/
theorem execRemux_err {s t : State} (hgate : s.remuxGate = true) (h : exec .remux s = .next t)
    (herr : t.err ≠ .ok) : ∃ e u, remuxPass s = .failed e u ∧ remuxFailed e u = .next t := by
  cases hpass : remuxPass s with
  | done u =>
    obtain rfl := succeed_next (execRemux_of_done hgate hpass ▸ h)
    exact absurd rfl herr
  | failed e u => exact ⟨e, u, rfl, execRemux_of_failed hgate hpass ▸ h⟩
  | fault f => simp [exec_remux, execRemux, hgate, hpass] at h

/-! ## The statements -/

/-- Settles O40: a pass fails only in the tables or a turn, so only with their errors, and `remuxFailed` says what is
left of the state it stopped in. -/
theorem failedRemuxReleasesTheOutput : Obligations.FailedRemuxReleasesTheOutput := by
  refine ⟨fun s t hgate h herr => ?_, fun s hgate hsmall => ?_⟩
  · obtain ⟨e, u, hpass, hfailed⟩ := execRemux_err hgate h herr
    obtain rfl := raise_next hfailed
    exact ⟨remuxPass_err hpass, u, hpass, rfl⟩
  · rw [execRemux_of_failed hgate (remuxPass_of_small hsmall)]
    rfl

/-- Settles O41: the pass leaves everything outside itself as it was, and its end changes flags, the session and the
results. -/
theorem remuxChangesOnlyItsOwnState : Obligations.RemuxChangesOnlyItsOwnState := by
  intro s t h
  have hframe := remuxPass_frame s
  rcases execRemux_next h with ⟨e, rfl⟩ | ⟨_, ⟨u, hpass, rfl⟩ | ⟨e, u, hpass, rfl⟩⟩
  · exact ⟨fun _ _ => rfl, fun _ => rfl, rfl⟩
  · rw [hpass] at hframe
    obtain ⟨hmem, hsame⟩ := hframe
    refine ⟨hmem, fun tr => (State.track_eq_of_outsidePass hsame tr :), ?_⟩
    rw [State.eq_of_outsidePass hsame]
    rfl
  · rw [hpass] at hframe
    obtain ⟨hmem, hsame⟩ := hframe
    refine ⟨hmem, fun tr => (State.track_eq_of_outsidePass hsame tr :), ?_⟩
    rw [State.eq_of_outsidePass hsame]
    rfl

end Sys2Proof.Machine
end

section

/-! The phase TABLES and the selection (46_selector.md R206, R207, R209), and a pass over tracks without a frame. -/

namespace Sys2Proof.Machine

/-! ## Stores one behind the other -/

theorem Memory.Stored.append {m m1 m2 : Memory} {a : Nat} {as bs : List Byte} (h1 : m.Stored m1 a as)
    (h2 : m1.Stored m2 (a + as.length) bs) : m.Stored m2 a (as ++ bs) := by
  intro x
  rw [h2 x, h1 x, List.length_append]
  by_cases hsecond : a + as.length ≤ x ∧ x < a + as.length + bs.length
  · rw [if_pos hsecond, if_pos (by omega), List.getD_append_right _ _ _ _ (by omega), Nat.sub_sub]
  · rw [if_neg hsecond]
    by_cases hfirst : a ≤ x ∧ x < a + as.length
    · rw [if_pos hfirst, if_pos (by omega), List.getD_append _ _ _ _ (by omega)]
    · rw [if_neg hfirst, if_neg (by omega)]

/-! ## Phase TABLES (R207) -/

/-- What the phase leaves: both tables with the counter `PSI_CC` had, and `PSI_CC` one higher. -/
def State.withTables (s : State) : State :=
  { s with
    mem := (s.mem.writeBytes s.outBase.toNat (patPacket s s.psiCc.toNat)).writeBytes (s.outBase.toNat + 188)
      (pmtPacket s s.psiCc.toNat)
    outWr := 376#32, outPkts := 2#32, psiCc := s.psiCc + 1#4 }

theorem State.withTables_stored (s : State) :
    s.mem.Stored s.withTables.mem s.outBase.toNat (patPacket s s.psiCc.toNat ++ pmtPacket s s.psiCc.toNat) :=
  (s.mem.stored_writeBytes _ _).append (by rw [length_patPacket]; exact Memory.stored_writeBytes _ _ _)

theorem State.withTables_readBytes (s : State) :
    s.withTables.mem.readBytes s.outBase.toNat 376 = patPacket s s.psiCc.toNat ++ pmtPacket s s.psiCc.toNat := by
  have hpat := s.mem.readBytes_writeBytes s.outBase.toNat (patPacket s s.psiCc.toNat)
  have hboth := (s.mem.writeBytes s.outBase.toNat (patPacket s s.psiCc.toNat)).readBytes_writeBytes_behind
    s.outBase.toNat 188 (pmtPacket s s.psiCc.toNat)
  rw [length_patPacket] at hpat
  rw [hpat, length_pmtPacket] at hboth
  exact hboth

theorem remuxTables_ok {s u : State} (h : remuxTables s = .ok u) : u = s.withTables := by
  unfold remuxTables at h
  split_ifs at h
  obtain ⟨s1, hpat, h⟩ := Result.bind_eq_ok.mp h
  obtain ⟨s2, hpmt, h⟩ := Result.bind_eq_ok.mp h
  obtain ⟨_, rfl⟩ := State.store_ok hpat
  obtain ⟨_, rfl⟩ := State.store_ok hpmt
  exact (Result.ok.inj h).symm

theorem remuxTables_of_le {s : State} (hcap : 376 ≤ s.outCap.toNat)
    (hregion : s.outBase.toNat + s.outCap.toNat ≤ Config.memSize) : remuxTables s = .ok s.withTables := by
  have hpat : s.outBase.toNat + (patPacket s s.psiCc.toNat).length ≤ Config.memSize := by
    rw [length_patPacket]; omega
  have hpmt : s.outBase.toNat + 188 + (pmtPacket s s.psiCc.toNat).length ≤ Config.memSize := by
    rw [length_pmtPacket]; omega
  rw [remuxTables, if_neg (not_lt.mpr hcap), State.store_of_le s hpat, Result.bind_ok, State.store_of_le _ hpmt,
    Result.bind_ok]
  rfl

/-! ## The selection (R209) -/

theorem select_eq_none_iff (s : State) : s.select = none ↔ s.avail .video = false ∧ s.avail .audio = false := by
  unfold State.select
  cases s.avail .video
  · cases s.avail .audio <;> simp
  · cases s.avail .audio && flt (s.selectKey .audio) (s.selectKey .video) <;> simp

/-- No selection phase starts a turn where no track has a frame. -/
theorem selectLoop_of_none {s : State} (h : s.select = none) (fuel : Nat) : selectLoop fuel s = .done s := by
  cases fuel <;> simp [selectLoop, h]

theorem select_of_avail {s : State} (hvideo : s.avail .video = true) (haudio : s.avail .audio = true) :
    s.select = if flt (s.selectKey .audio) (s.selectKey .video) = true then some .audio else some .video := by
  rw [State.select, hvideo, haudio]
  rfl

/-- Settles O37: the loop and `select` agree for each track with or without a frame, and `flt` on finite keys is the
order of the numbers. -/
theorem selectionIsTheStableMinimum : Obligations.SelectionIsTheStableMinimum := by
  refine fun s => ⟨?_, fun hvideo haudio hfinv hfina => ?_⟩
  · unfold State.select
    cases hvideo : s.avail .video with
    | false => cases haudio : s.avail .audio <;> simp [hvideo, haudio]
    | true => cases haudio : s.avail .audio <;> simp [hvideo, haudio]
  · simp only [select_of_avail hvideo haudio, flt_iff hfina hfinv]

/-! ## A pass without a frame to take (R213) -/

theorem remuxPass_without_frames {s : State} (hvideo : s.avail .video = false) (haudio : s.avail .audio = false)
    (hcap : 376 ≤ s.outCap.toNat) (hregion : s.outBase.toNat + s.outCap.toNat ≤ Config.memSize) :
    remuxPass s = .done ((s.releaseOutput.inPhase .tables).withTables.inPhase .done) := by
  let tables := (s.releaseOutput.inPhase .tables).withTables
  have hlead : remuxLead (tables.inPhase .lead) = .ok (tables.inPhase .lead) :=
    if_neg (Bool.eq_false_iff.mp hvideo)
  have hselect : ((tables.inPhase .lead).inPhase .select).select = none :=
    (select_eq_none_iff _).mpr ⟨hvideo, haudio⟩
  exact remuxPass_eq_done.mpr ⟨tables, tables.inPhase .lead, _, remuxTables_of_le hcap hregion, hlead,
    selectLoop_of_none hselect _, rfl⟩

/-- Settles O38: the pass ends with what TABLES leaves. -/
theorem remuxWithoutFramesEmitsTheTables : Obligations.RemuxWithoutFramesEmitsTheTables := by
  refine ⟨encode_remux, fun s hready hlead hvideo haudio hcap hregion => ?_⟩
  have hpass := remuxPass_without_frames hvideo haudio hcap hregion
  exact ⟨_, execRemux_of_done (remuxGate_of_ready hready hlead) hpass,
    (s.releaseOutput.inPhase .tables).withTables_stored, rfl⟩

end Sys2Proof.Machine
end

section

/-! The output region in a pass: it reads as whole packets, the tables first, and every turn puts its packets behind
them (46_selector.md R207, R210; 44_packetizer.md R171, R176; 10_state.md R33). -/

namespace Sys2Proof.Machine

/-! ## Whole packets -/

/-- 188 bytes, the first of them the sync byte. -/
def IsPacket (p : List Byte) : Prop := p.length = 188 ∧ p.head? = some 0x47#8

theorem isPacket_of_mem_packets {n cc pid : Nat} {first : Bool} {pcr : Option Int} {data p : List Byte}
    (h : p ∈ packets n cc first pcr pid data) : IsPacket p := by
  obtain ⟨j, hj, rfl⟩ := List.mem_iff_getElem.mp h
  obtain ⟨pcr', data', hpacket⟩ := getElem_packets hj
  rw [hpacket]
  refine ⟨length_tsPacketOf _ _ _ _ _, ?_⟩
  rw [tsPacketOf, List.head?_append, head?_tsHeader]
  rfl

theorem isPacket_patPacket (s : State) (counter : Nat) : IsPacket (patPacket s counter) :=
  ⟨length_patPacket s counter, by rw [patPacket, tablePacket_eq]; rfl⟩

theorem isPacket_pmtPacket (s : State) (counter : Nat) : IsPacket (pmtPacket s counter) :=
  ⟨length_pmtPacket s counter, by rw [pmtPacket, tablePacket_eq]; rfl⟩

theorem length_flatten_of_isPacket {ps : List (List Byte)} (h : ∀ p ∈ ps, IsPacket p) :
    ps.flatten.length = 188 * ps.length := by
  induction ps with
  | nil => rfl
  | cons p ps ih =>
    rw [List.forall_mem_cons] at h
    rw [List.flatten_cons, List.length_append, h.1.1, ih h.2, List.length_cons, Nat.mul_succ, Nat.add_comm]

/-- Packets put together have the sync byte at every multiple of 188. -/
theorem getD_flatten_of_isPacket {ps : List (List Byte)} (h : ∀ p ∈ ps, IsPacket p) {j : Nat} (hj : j < ps.length) :
    ps.flatten.getD (188 * j) 0#8 = 0x47#8 := by
  induction ps generalizing j with
  | nil => exact absurd hj (Nat.not_lt_zero j)
  | cons p ps ih =>
    obtain ⟨⟨hlength, hsync⟩, hps⟩ := List.forall_mem_cons.mp h
    rw [List.flatten_cons]
    cases j with
    | zero =>
      rw [Nat.mul_zero, List.getD_append _ _ _ _ (by omega), List.getD_eq_getElem?_getD, ← List.head?_eq_getElem?,
        hsync]
      rfl
    | succ j =>
      rw [List.getD_append_right _ _ _ _ (by omega), hlength, Nat.mul_succ, Nat.add_sub_cancel]
      exact ih hps (Nat.lt_of_succ_lt_succ hj)

/-! ## The output so far -/

/-- The `OUT_WR` bytes of the output region are the packets `ps`, and `OUT_PKTS` is their number. -/
structure OutputIs (s : State) (ps : List (List Byte)) : Prop where
  bytes : s.mem.readBytes s.outBase.toNat s.outWr.toNat = ps.flatten
  whole : ∀ p ∈ ps, IsPacket p
  count : s.outPkts.toNat = ps.length

theorem OutputIs.outWr {s : State} {ps : List (List Byte)} (h : OutputIs s ps) :
    s.outWr.toNat = 188 * s.outPkts.toNat := by
  have hlength := congrArg List.length h.bytes
  rwa [Memory.length_readBytes, length_flatten_of_isPacket h.whole, ← h.count] at hlength

theorem OutputIs.sync {s : State} {ps : List (List Byte)} (h : OutputIs s ps) {j : Nat} (hj : j < s.outPkts.toNat) :
    s.mem.read (s.outBase.toNat + 188 * j) = 0x47#8 := by
  have hlt : 188 * j < s.outWr.toNat := by rw [h.outWr]; omega
  rw [← Memory.getD_readBytes _ _ _ _ 0#8 hlt, h.bytes]
  exact getD_flatten_of_isPacket h.whole (h.count ▸ hj)

theorem outputIs_withTables (s : State) :
    OutputIs s.withTables [patPacket s s.psiCc.toNat, pmtPacket s s.psiCc.toNat] where
  bytes := s.withTables_readBytes.trans (by simp)
  whole := by simp [isPacket_patPacket, isPacket_pmtPacket]
  count := rfl

/-- A turn stores whole packets at the output position and moves it behind them. -/
theorem mux_emits {t : TrackId} {s u : State} (h : mux t s = .ok u) :
    ∃ ps : List (List Byte), (∀ p ∈ ps, IsPacket p) ∧ s.outWr.toNat + 188 * ps.length ≤ s.outCap.toNat ∧
      u.mem = s.mem.writeBytes (s.outBase.toNat + s.outWr.toNat) ps.flatten ∧
      u.outWr = BitVec.ofNat 32 (s.outWr.toNat + 188 * ps.length) ∧
      u.outPkts = BitVec.ofNat 32 (s.outPkts.toNat + ps.length) ∧ u.outBase = s.outBase ∧ u.psiCc = s.psiCc := by
  obtain ⟨v, n, hpack, rfl⟩ := mux_ok h
  obtain ⟨p, d, pcr, _, _, _, _, hn, hcap, hemit⟩ := packetize_ok hpack
  generalize hps : packets n _ true pcr _ _ = ps at hemit
  obtain ⟨_, rfl⟩ := State.emitPackets_ok hemit
  refine ⟨ps, fun p hp => isPacket_of_mem_packets (hps ▸ hp), by rwa [← hps, length_packets], ?_⟩
  simp

theorem OutputIs.mux {t : TrackId} {s u : State} {ps : List (List Byte)} (hs : OutputIs s ps)
    (h : mux t s = .ok u) : ∃ qs, OutputIs u (ps ++ qs) := by
  obtain ⟨qs, hqs, hcap, hmem, hwr, hpkts, hbase, _⟩ := mux_emits h
  have hlength := length_flatten_of_isPacket hqs
  have hmax := s.outCap.isLt
  have hsize := hs.outWr
  refine ⟨qs, ?_, List.forall_mem_append.mpr ⟨hs.whole, hqs⟩, ?_⟩
  · rw [hmem, hbase, hwr, BitVec.toNat_ofNat, Nat.mod_eq_of_lt (by omega), ← hlength,
      Memory.readBytes_writeBytes_behind, hs.bytes, List.flatten_append]
  · rw [hpkts, BitVec.toNat_ofNat, Nat.mod_eq_of_lt (by omega), hs.count, List.length_append]

/-! ## A successful pass -/

/-- What the tables establish and every turn keeps, whatever the phase, holds where a pass is done. -/
theorem remuxPass_done_of_tables {P : State → Prop} (hphase : ∀ u p, P u → P (u.inPhase p))
    (hmux : ∀ t u v, P u → u.avail t = true → mux t u = .ok v → P v) {s u : State}
    (htables : P (s.releaseOutput.inPhase .tables).withTables) (h : remuxPass s = .done u) : P u := by
  obtain ⟨tables, lead, last, htab, hlead, hloop, rfl⟩ := remuxPass_eq_done.mp h
  obtain rfl := remuxTables_ok htab
  have hin := hphase _ .lead htables
  have hled : P lead := by
    unfold remuxLead at hlead
    split_ifs at hlead with havail
    · exact hmux .video _ lead hin havail hlead
    · exact Result.ok.inj hlead ▸ hin
  have hends := selectLoop_ends hmux (lead.framesLeft .video + lead.framesLeft .audio) (hphase _ .select hled)
  rw [hloop] at hends
  exact hphase _ .done hends

/-- In a pass over `s` the output is the tables and further packets, and `PSI_CC` has been counted on. -/
def TablesFirst (s u : State) : Prop :=
  u.outBase = s.outBase ∧ u.psiCc = s.psiCc + 1#4 ∧
    ∃ qs, OutputIs u ([patPacket s s.psiCc.toNat, pmtPacket s s.psiCc.toNat] ++ qs)

theorem TablesFirst.inPhase {s u : State} (h : TablesFirst s u) (p : Phase) : TablesFirst s (u.inPhase p) := by
  obtain ⟨hbase, hcc, qs, hbytes, hwhole, hcount⟩ := h
  exact ⟨hbase, hcc, qs, hbytes, hwhole, hcount⟩

theorem TablesFirst.mux {t : TrackId} {s u v : State} (hu : TablesFirst s u) (h : mux t u = .ok v) :
    TablesFirst s v := by
  obtain ⟨hbase, hcc, qs, hout⟩ := hu
  obtain ⟨rs, hrs⟩ := hout.mux h
  obtain ⟨_, _, _, _, _, _, hvbase, hvcc⟩ := mux_emits h
  exact ⟨hvbase.trans hbase, hvcc.trans hcc, qs ++ rs, by rwa [← List.append_assoc]⟩

theorem remuxPass_tablesFirst {s u : State} (h : remuxPass s = .done u) : TablesFirst s u :=
  remuxPass_done_of_tables (P := TablesFirst s) (fun _ p hu => hu.inPhase p) (fun _ _ _ hu _ hv => hu.mux hv)
    ⟨rfl, rfl, [], outputIs_withTables _⟩ h

/-- Settles O42: after the tables every turn puts whole packets behind what is there. -/
theorem remuxOutputStartsWithTheTables : Obligations.RemuxOutputStartsWithTheTables := by
  intro s t h hok
  obtain ⟨_, u, hpass, hdone⟩ := execRemux_ok h hok
  obtain rfl := succeed_next hdone
  obtain ⟨hbase, hcc, qs, hout⟩ := remuxPass_tablesFirst hpass
  have hcount : u.outPkts.toNat = qs.length + 2 := by simpa using hout.count
  refine ⟨?_, hcc, hout.outWr, hcount ▸ Nat.le_add_left 2 _, fun j hj => hbase ▸ hout.sync hj⟩
  have hsize : u.outWr.toNat = 376 + 188 * qs.length := by rw [hout.outWr, hcount]; omega
  have hread := hout.bytes
  rw [hsize, Memory.readBytes_add, List.flatten_append, hbase] at hread
  simpa using List.append_inj_left hread (by simp)

end Sys2Proof.Machine
end

section

/-! The frames of a turn, and a successful `REMUX` as its turns (46_selector.md R206 to R210, R213). -/

namespace Sys2Proof.Machine

/-! ## The frames of a turn (R210) -/

theorem State.extent_of_lt {s : State} {t : TrackId} {k : Nat} (h : k < (s.track t).extents.length) :
    s.extent t k = (s.track t).extents[k] := by
  simp [State.extent, h]

theorem batchBytes_eq_sum {s : State} {t : TrackId} {k nb : Nat} (h : k + nb ≤ (s.track t).extents.length) :
    s.batchBytes t k nb = ((((s.track t).extents.drop k).take nb).map fun e => e.size.toNat).sum := by
  induction nb generalizing k with
  | zero => simp [State.batchBytes]
  | succ nb ih =>
    have hlt : k < (s.track t).extents.length := by omega
    rw [State.batchBytes, ih (by omega), State.extent_of_lt hlt, List.drop_eq_getElem_cons hlt, List.take_succ_cons,
      List.map_cons, List.sum_cons]

/-- Frames that follow one another, each read where its own extent lies, are one run of bytes. -/
theorem flatMap_readBytes_of_contiguous {m : Memory} {base start stop : Nat} {es : List FrameExtent}
    (h : contiguous start stop es = true) (nb : Nat) :
    ((es.take nb).flatMap fun e => m.readBytes (base + e.offset.toNat) e.size.toNat) =
      m.readBytes (base + start) ((es.take nb).map fun e => e.size.toNat).sum := by
  induction es generalizing start nb with
  | nil => simp [Memory.readBytes]
  | cons e es ih =>
    rw [contiguous, Bool.and_eq_true, decide_eq_true_iff] at h
    obtain ⟨rfl, hrest⟩ := h
    cases nb with
    | zero => simp [Memory.readBytes]
    | succ nb =>
      rw [List.take_succ_cons, List.flatMap_cons, List.map_cons, List.sum_cons, Memory.readBytes_add, ih hrest nb,
        Nat.add_assoc]

/-- The frames a turn takes lie in the track's buffer from the first one's offset on. -/
theorem turn_payload {s : State} {t : TrackId} (hok : (s.track t).Ok) (h : s.avail t = true) :
    ((((s.track t).extents.drop (s.track t).framesWritten.toNat).take (s.batchSize t)).flatMap fun e =>
      s.mem.readBytes ((s.track t).tbufBase.toNat + e.offset.toNat) e.size.toNat) =
    s.mem.readBytes
      ((s.track t).tbufBase.toNat + (s.extent t (s.track t).framesWritten.toNat).offset.toNat)
      (s.batchBytes t (s.track t).framesWritten.toNat (s.batchSize t)) := by
  obtain ⟨hframes, _⟩ := consumed_within hok h
  have hlt : (s.track t).framesWritten.toNat < (s.track t).extents.length := by
    have havail : s.nextFrame t < (s.track t).nFrames.toNat := of_decide_eq_true h
    rw [State.nextFrame] at havail
    rw [hok.extentsHeld]
    omega
  rw [batchBytes_eq_sum (hok.extentsHeld ▸ hframes), State.extent_of_lt hlt]
  exact flatMap_readBytes_of_contiguous (contiguous_drop hok.noGap hlt) _

/-! ## A turn -/

theorem pcrRequest_ok {needPcr : Bool} {time : Word64} {pcr : Option Int} (h : pcrRequest needPcr time = .ok pcr) :
    pcr = if needPcr then ticks27M time else none := by
  cases needPcr with
  | false => exact (Result.ok.inj h).symm
  | true =>
    obtain ⟨p, hp, h⟩ := Result.bind_eq_ok.mp h
    rw [← Result.ok.inj h, if_pos rfl, Result.ofOption_eq_ok.mp hp]

/-- `mux` does what the spec says of a turn. -/
theorem mux_turnEnds {t : TrackId} {s u : State} (hok : (s.track t).Ok) (havail : s.avail t = true)
    (h : mux t s = .ok u) : turnEnds t s u := by
  obtain ⟨v, n, hpack, rfl⟩ := mux_ok h
  obtain ⟨p, d, pcr, hp, hd, hpcr, _, rfl, hcap, hemit⟩ := packetize_ok hpack
  obtain ⟨_, rfl⟩ := State.emitPackets_ok hemit
  have hsome := pcrRequest_isSome hpcr
  have htime := pcrRequest_ok hpcr
  unfold turnEnds
  dsimp only
  rw [turnFrames_eq, turn_payload hok havail, frameTimes_eq, nextIndex_eq, Memory.length_readBytes]
  refine ⟨p, d, pcr, hp, hd, ?_, ?_, ?_, ?_⟩
  · cases t
    · exact ⟨hsome, htime⟩
    · exact htime
  · rw [hsome]
    cases t <;> exact hcap
  · rw [hsome]
    cases t <;> exact Memory.stored_writeBytes _ _ _
  · rw [hsome, length_packets]
    cases t <;> rfl

/-- A selection phase that is done is a list of turns, each of the track whose turn it is. -/
theorem selectLoop_turns {fuel : Nat} {s u : State} (hs : s.OkInPass) (h : selectLoop fuel s = .done u) :
    ∃ turns, turnsLead turns s u := by
  induction fuel generalizing s with
  | zero =>
    rw [selectLoop] at h
    split at h
    · exact ⟨[], (Pass.done.inj h).symm⟩
    · cases h
  | succ fuel ih =>
    rw [selectLoop] at h
    split at h
    · exact ⟨[], (Pass.done.inj h).symm⟩
    · next t hsel =>
      obtain ⟨v, hmux, hloop⟩ := Pass.andThen_eq_done.mp h
      rw [Pass.ofResult_eq_done] at hmux
      have havail := State.avail_of_select hsel
      obtain ⟨turns, hturns⟩ := ih (mux_keeps_ok hs havail hmux) hloop
      exact ⟨t :: turns, (turnOf_iff_select s t).mpr hsel, v, mux_turnEnds (hs.1.track t) havail hmux, hturns⟩

/-! ## The whole pass (R213) -/

theorem State.Ok.startsPass {s : State} (hs : s.Ok) (hgate : s.remuxGate = true) :
    (s.releaseOutput.inPhase .tables).OkInPass := by
  have hon : s.session ≠ .off := by rw [session_of_remuxGate hgate]; decide
  have hrelease : s.releaseOutput.Ok :=
    (hs.withOutput (wr := 0#32) (pkts := 0#32) hon rfl (Nat.zero_le _)).withFree _ _ _ _ _ _ _ _
  have hidle : s.releaseOutput.inPhase .idle = s.releaseOutput := by rw [← hs.phase]; rfl
  exact ⟨hidle.symm ▸ hrelease, hon⟩

theorem remuxLead_keeps_ok {s u : State} (hs : s.OkInPass) (h : remuxLead s = .ok u) : u.OkInPass := by
  unfold remuxLead at h
  split_ifs at h with havail
  · exact mux_keeps_ok hs havail h
  · exact Result.ok.inj h ▸ hs

theorem not_hasFrame_of_select {s : State} (h : s.select = none) (t : TrackId) : ¬ hasFrame s t := by
  obtain ⟨hvideo, haudio⟩ := (select_eq_none_iff s).mp h
  rw [hasFrame_iff_avail, Bool.not_eq_true]
  cases t
  · exact hvideo
  · exact haudio

/-- Settles O60: the phases of a pass that is done, the selection phase as its turns. -/
theorem remuxTakesTheTurnsInOrder : Obligations.RemuxTakesTheTurnsInOrder := by
  intro s t hs h hok
  obtain ⟨hgate, u, hpass, hdone⟩ := execRemux_ok h hok
  obtain rfl := succeed_next hdone
  obtain ⟨tables, lead, last, htables, hlead, hloop, rfl⟩ := remuxPass_eq_done.mp hpass
  have htablesOk := remuxTables_keeps_ok (hs.startsPass hgate) htables
  have htab := remuxTables_ok htables
  have hleadOk := remuxLead_keeps_ok (s := tables.inPhase .lead) htablesOk hlead
  obtain ⟨turns, hturns⟩ := selectLoop_turns (s := lead.inPhase .select) hleadOk hloop
  have hlast := not_hasFrame_of_select (selectLoop_done hloop)
  have hframe : hasFrame s .video ↔ (tables.inPhase .lead).avail .video = true := by
    rw [htab]
    exact hasFrame_iff_avail s .video
  refine ⟨tables.inPhase .lead, lead, last, turns, ?_, ?_, fun hvideo => ?_, fun hvideo => ?_, hturns, hlast .video,
    hlast .audio, rfl⟩
  · rw [htab]
    exact (s.releaseOutput.inPhase .tables).withTables_stored
  · rw [htab]
    rfl
  · have havail := hframe.mp hvideo
    exact mux_turnEnds (htablesOk.1.track .video) havail ((if_pos havail).symm.trans hlead)
  · have havail := mt hframe.mpr hvideo
    exact (Result.ok.inj ((if_neg havail).symm.trans hlead)).symm

end Sys2Proof.Machine
end

section

/-! A `REMUX` with room enough (46_selector.md R211, R213; 70_reset_and_hazards.md R277): a turn needs no more packets
than the bound of the frames it takes, and so every turn succeeds until no frame is left. -/

namespace Sys2Proof.Machine

/-! ## Packets that suffice (44_packetizer.md R177) -/

theorem packetCountFrom_of_empty (fuel : Nat) (needPcr : Bool) : packetCountFrom fuel needPcr 0 = 0 := by
  cases fuel <;> rfl

/-- Without a PCR a packet takes 184 bytes, or what is left; 183 bytes alone need a second packet. -/
theorem packetCountFrom_noPcr_le (fuel rem : Nat) : packetCountFrom fuel false rem ≤ (rem + 1) / 184 + 1 := by
  induction fuel generalizing rem with
  | zero => exact Nat.zero_le _
  | succ fuel ih =>
    rw [packetCountFrom]
    split_ifs with hempty
    · exact Nat.zero_le _
    rcases lt_or_ge rem 184 with hshort | hfull
    · rw [tsHeaderLength_of_noPcr (.inl hshort)]
      rcases lt_or_ge rem 183 with hfits | hover
      · rw [show rem - min (188 - (6 + (182 - rem))) rem = 0 by omega, packetCountFrom_of_empty]
        omega
      · have hrest := ih (rem - min (188 - (6 + (182 - rem))) rem)
        omega
    · rw [tsHeaderLength_of_plain hfull]
      have hrest := ih (rem - min (188 - 4) rem)
      omega

theorem packetCount_le (total : Nat) (isPcr : Bool) : packetCount total isPcr ≤ (total + 9) / 184 + 1 := by
  cases isPcr with
  | false => exact (packetCountFrom_noPcr_le total total).trans (by omega)
  | true =>
    unfold packetCount
    cases total with
    | zero => exact Nat.zero_le _
    | succ total =>
      rw [packetCountFrom, if_neg (Nat.succ_ne_zero total), tsHeaderLength_of_pcr]
      rcases lt_or_ge (total + 1) 177 with hfits | hover
      · rw [show total + 1 - min (188 - (12 + (176 - (total + 1)))) (total + 1) = 0 by omega,
          packetCountFrom_of_empty]
        omega
      · have hrest := packetCountFrom_noPcr_le total
          (total + 1 - min (188 - (12 + (176 - (total + 1)))) (total + 1))
        omega

/-- The PES header has at most 19 bytes. -/
theorem packetCount_le_packetBound {header size : Nat} (h : header ≤ 19) (isPcr : Bool) :
    packetCount (header + size) isPcr ≤ packetBound size := by
  have hcount := packetCount_le (header + size) isPcr
  unfold packetBound
  omega

/-- Frames together need no more packets than each for itself. -/
theorem packetBound_sum_le {es : List FrameExtent} (h : es ≠ []) :
    packetBound (es.map fun e => e.size.toNat).sum ≤ (es.map fun e => packetBound e.size.toNat).sum := by
  induction es with
  | nil => exact absurd rfl h
  | cons e es ih =>
    cases es with
    | nil => simp
    | cons f es =>
      have htail := ih (List.cons_ne_nil f es)
      rw [List.map_cons, List.sum_cons, List.map_cons (f := fun e : FrameExtent => packetBound e.size.toNat),
        List.sum_cons]
      refine le_trans ?_ (Nat.add_le_add_left htail _)
      unfold packetBound
      omega

theorem State.pesBytes_le (s : State) (pts dts : Word64) : s.pesBytes pts dts ≤ 19 := by
  unfold State.pesBytes
  split
  · split_ifs <;> omega
  · exact Nat.zero_le 19

/-! ## What a turn takes from a track -/

/-- The packets that suffice for a turn of track `t`. -/
def State.turnBound (s : State) (t : TrackId) : Nat :=
  packetBound (s.batchBytes t (s.track t).framesWritten.toNat (s.batchSize t))

theorem mux_track {t : TrackId} {s u : State} (h : mux t s = .ok u) :
    (u.track t).framesWritten = BitVec.ofNat 32 ((s.track t).framesWritten.toNat + s.batchSize t) ∧
      ∀ t', t' ≠ t → u.track t' = s.track t' := by
  obtain ⟨v, n, hpack, rfl⟩ := mux_ok h
  obtain ⟨m, cc, _, _, rfl⟩ := packetize_step hpack
  refine ⟨by simp, fun t' ht => ?_⟩
  rw [State.track_setTrack_other _ ht, State.track_setTrack_other _ ht]
  cases t' <;> rfl

theorem mux_framesWritten {t : TrackId} {s u : State} (hok : (s.track t).Ok) (havail : s.avail t = true)
    (h : mux t s = .ok u) :
    (u.track t).framesWritten.toNat = (s.track t).framesWritten.toNat + s.batchSize t := by
  have hframes := (consumed_within hok havail).1
  have hmax := (s.track t).nFrames.isLt
  rw [(mux_track h).1, BitVec.toNat_ofNat, Nat.mod_eq_of_lt (by omega)]

theorem batchSize_pos {s : State} {t : TrackId} (hbatch : 1 ≤ s.audioBatch.toNat) (havail : s.avail t = true) :
    0 < s.batchSize t := by
  have hlt : s.nextFrame t < (s.track t).nFrames.toNat := of_decide_eq_true havail
  cases t
  · exact Nat.one_pos
  · exact lt_min hbatch (Nat.sub_pos_of_lt hlt)

/-- The frames left are those of the next turn and those behind them. -/
theorem turnBound_add_le {s : State} {t : TrackId} (hok : (s.track t).Ok) (hbatch : 1 ≤ s.audioBatch.toNat)
    (havail : s.avail t = true) :
    s.turnBound t + (((s.track t).extents.drop ((s.track t).framesWritten.toNat + s.batchSize t)).map
      fun e => packetBound e.size.toNat).sum ≤ s.packetsLeft t := by
  have hframes := (consumed_within hok havail).1
  have hpos := batchSize_pos hbatch havail
  rw [← hok.extentsHeld] at hframes
  have htaken : ((s.track t).extents.drop (s.track t).framesWritten.toNat).take (s.batchSize t) ≠ [] := by
    rw [← List.length_pos_iff, List.length_take, List.length_drop]
    omega
  unfold State.packetsLeft State.turnBound
  rw [batchBytes_eq_sum hframes, ← List.drop_drop]
  conv_rhs => rw [← List.take_append_drop (s.batchSize t) ((s.track t).extents.drop _), List.map_append,
    List.sum_append]
  exact Nat.add_le_add_right (packetBound_sum_le htaken) _

theorem mux_packetsLeft {t : TrackId} {s u : State} (hok : (s.track t).Ok) (hbatch : 1 ≤ s.audioBatch.toNat)
    (havail : s.avail t = true) (h : mux t s = .ok u) : s.turnBound t + u.packetsLeft t ≤ s.packetsLeft t := by
  have hnext := turnBound_add_le hok hbatch havail
  obtain ⟨_, _, hextents⟩ := mux_keepsFrames h t
  rwa [State.packetsLeft, hextents, mux_framesWritten hok havail h]

theorem mux_framesLeft {t : TrackId} {s u : State} (hok : (s.track t).Ok) (hbatch : 1 ≤ s.audioBatch.toNat)
    (havail : s.avail t = true) (h : mux t s = .ok u) : u.framesLeft t < s.framesLeft t := by
  have hpos := batchSize_pos hbatch havail
  have hlt : s.nextFrame t < (s.track t).nFrames.toNat := of_decide_eq_true havail
  obtain ⟨hframes, _, _⟩ := mux_keepsFrames h t
  have hfirst : (u.track t).firstFrame = (s.track t).firstFrame := by
    rw [State.track_eq_of_outsidePass (mux_outsidePass h) t]
  unfold State.framesLeft
  unfold State.nextFrame at hlt ⊢
  rw [hframes, hfirst, mux_framesWritten hok havail h]
  omega

/-- A turn leaves the other track as it was. -/
theorem mux_other {t : TrackId} {s u : State} (h : mux t s = .ok u) :
    (∀ t', t' ≠ t → u.packetsLeft t' = s.packetsLeft t') ∧ ∀ t', t' ≠ t → u.framesLeft t' = s.framesLeft t' := by
  refine ⟨fun t' ht => ?_, fun t' ht => ?_⟩
  · rw [State.packetsLeft, (mux_track h).2 t' ht, State.packetsLeft]
  · rw [State.framesLeft, State.nextFrame, (mux_track h).2 t' ht, State.framesLeft, State.nextFrame]

/-! ## A turn with room enough -/

theorem region_le_memSize {rs : List (Nat × Nat)} (h : regionsUsable rs = true) {r : Nat × Nat} (hr : r ∈ rs) :
    r.1 + r.2 ≤ Config.memSize := by
  induction rs with
  | nil => cases hr
  | cons q rs ih =>
    rw [regionsUsable, Bool.and_eq_true, Bool.and_eq_true, Bool.and_eq_true] at h
    obtain ⟨⟨⟨_, hin⟩, _⟩, hrest⟩ := h
    rcases List.mem_cons.mp hr with rfl | hr
    · exact of_decide_eq_true hin
    · exact ih hrest hr

theorem State.OkInPass.outRegion {s : State} (h : s.OkInPass) :
    s.outBase.toNat + s.outCap.toNat ≤ Config.memSize :=
  region_le_memSize (h.1.regions h.2) (r := (s.outBase.toNat, s.outCap.toNat)) (by simp [State.sessionRegions])

theorem State.OkInPass.trackRegion {s : State} (h : s.OkInPass) (t : TrackId) :
    (s.track t).tbufBase.toNat + (s.track t).tbufCap.toNat ≤ Config.memSize :=
  region_le_memSize (h.1.regions h.2) (r := ((s.track t).tbufBase.toNat, (s.track t).tbufCap.toNat))
    (by cases t <;> simp [State.sessionRegions])

theorem packetize_within {t : TrackId} {src size sid pid : Nat} {pts dts : Word64} {isPcr : Bool} {s : State}
    (hp : (ticks90 s.bias pts).isSome = true) (hd : (ticks90 s.bias dts).isSome = true)
    (hpcr : isPcr = true → (ticks27M dts).isSome = true) (hsrc : src + size ≤ Config.memSize)
    (hroom : s.outWr.toNat + 188 * packetBound size ≤ s.outCap.toNat)
    (hregion : s.outBase.toNat + s.outCap.toNat ≤ Config.memSize) :
    ∃ u n, packetize t src size pts dts sid pid isPcr s = .ok (u, n) ∧
      u.outWr.toNat ≤ s.outWr.toNat + 188 * packetBound size := by
  obtain ⟨p, hp⟩ := Option.isSome_iff_exists.mp hp
  obtain ⟨d, hd⟩ := Option.isSome_iff_exists.mp hd
  have hcount : packetCount (pesHeader size p d sid ++ s.mem.readBytes src size).length isPcr ≤ packetBound size := by
    rw [List.length_append, Memory.length_readBytes, length_pesHeader_eq_pesBytes hp hd]
    exact packetCount_le_packetBound (s.pesBytes_le pts dts) isPcr
  obtain ⟨u, hu⟩ := packetize_succeeds (t := t) (sid := sid) (pid := pid) hp hd hpcr hsrc (by omega) hregion
  obtain ⟨_, _, _, hwr⟩ := packetize_storesIn hu
  exact ⟨u, _, hu, by omega⟩

theorem mux_succeeds {t : TrackId} {s : State} (hs : s.OkInPass) (havail : s.avail t = true)
    (hticks : s.ticksDefined t) (hroom : s.outWr.toNat + 188 * s.turnBound t ≤ s.outCap.toNat) :
    ∃ u, mux t s = .ok u ∧ u.outWr.toNat ≤ s.outWr.toNat + 188 * s.turnBound t := by
  have htrack : (s.track t).Ok := hs.1.track t
  obtain ⟨hpts, hdts, hpcr⟩ := hticks (s.nextFrame t) (of_decide_eq_true havail)
  have hbytes := (consumed_within htrack havail).2
  have hfits := htrack.fits
  have hregion := hs.trackRegion t
  obtain ⟨v, n, hv, hwr⟩ := packetize_within (t := t) (sid := sidOf t) (pid := s.pidOf t) hpts hdts
    (hpcr ∘ of_decide_eq_true)
    (src := (s.track t).tbufBase.toNat + (s.extent t (s.track t).framesWritten.toNat).offset.toNat)
    (by omega) hroom hs.outRegion
  refine ⟨_, by rw [mux, hv, Result.bind_ok], ?_⟩
  rwa [State.setTrack_outWr]

/-! ## A pass with room enough -/

theorem State.ticksDefined_outsidePass (s : State) (t : TrackId) :
    s.outsidePass.ticksDefined t ↔ s.ticksDefined t := by
  cases t <;> exact Iff.rfl

theorem State.ticksDefined_of_outsidePass {s u : State} (h : u.outsidePass = s.outsidePass) {t : TrackId}
    (hs : s.ticksDefined t) : u.ticksDefined t := by
  rw [← State.ticksDefined_outsidePass, h, State.ticksDefined_outsidePass]
  exact hs

/-- A state of a pass over `s` in which what is written and what the frames left may need is within the sizing rule's
bound for `s` (70_reset_and_hazards.md R277). -/
structure InBudget (s u : State) : Prop where
  ok : u.OkInPass
  same : u.outsidePass = s.outsidePass
  room : u.outWr.toNat + 188 * (u.packetsLeft .video + u.packetsLeft .audio) ≤
    376 + 188 * (s.packetsLeft .video + s.packetsLeft .audio)

theorem InBudget.inPhase {s u : State} (h : InBudget s u) (p : Phase) : InBudget s (u.inPhase p) :=
  ⟨h.ok, h.same, h.room⟩

/-- Frames of both tracks not yet consumed: what bounds the selections (46_selector.md R211). -/
def State.allFramesLeft (s : State) : Nat := s.framesLeft .video + s.framesLeft .audio

section Budget
variable {s : State} (hticks : ∀ t, s.ticksDefined t)
  (hcap : 376 + 188 * (s.packetsLeft .video + s.packetsLeft .audio) ≤ s.outCap.toNat)
include hticks hcap

/-- Within the budget a turn succeeds, keeps the budget and leaves fewer frames. -/
theorem InBudget.mux {u : State} (hu : InBudget s u) {t : TrackId} (havail : u.avail t = true) :
    ∃ v, mux t u = .ok v ∧ InBudget s v ∧ v.allFramesLeft < u.allFramesLeft := by
  have htrack : (u.track t).Ok := hu.ok.1.track t
  have hbatch : 1 ≤ u.audioBatch.toNat := hu.ok.1.config.audioBatch.1
  have hucap : u.outCap = s.outCap := by rw [State.eq_of_outsidePass hu.same]
  have hnext := (Nat.le_add_right _ _).trans (turnBound_add_le htrack hbatch havail)
  have hsplit : u.packetsLeft t ≤ u.packetsLeft .video + u.packetsLeft .audio := by cases t <;> omega
  have hroom := hu.room
  obtain ⟨v, hv, hwr⟩ := mux_succeeds hu.ok havail (State.ticksDefined_of_outsidePass hu.same (hticks t))
    (by rw [hucap]; omega)
  have hpackets := mux_packetsLeft htrack hbatch havail hv
  have hframes := mux_framesLeft htrack hbatch havail hv
  obtain ⟨hotherPackets, hotherFrames⟩ := mux_other hv
  refine ⟨v, hv, ⟨mux_keeps_ok hu.ok havail hv, (mux_outsidePass hv).trans hu.same, ?_⟩, ?_⟩
  · cases t
    · have hother := hotherPackets .audio nofun
      omega
    · have hother := hotherPackets .video nofun
      omega
  · unfold State.allFramesLeft
    cases t
    · have hother := hotherFrames .audio nofun
      omega
    · have hother := hotherFrames .video nofun
      omega

theorem remuxLead_within {u : State} (hu : InBudget s u) : ∃ lead, remuxLead u = .ok lead ∧ InBudget s lead := by
  unfold remuxLead
  split_ifs with havail
  · obtain ⟨v, hv, hin, _⟩ := hu.mux hticks hcap havail
    exact ⟨v, hv, hin⟩
  · exact ⟨u, rfl, hu⟩

/-- With as many selections as frames left, the selection phase comes to its end (R211). -/
theorem selectLoop_within {fuel : Nat} {u : State} (hu : InBudget s u) (hfuel : u.allFramesLeft ≤ fuel) :
    ∃ last, selectLoop fuel u = .done last ∧ InBudget s last := by
  induction fuel generalizing u with
  | zero =>
    refine ⟨u, selectLoop_of_none ?_ 0, hu⟩
    rw [select_eq_none_iff]
    unfold State.allFramesLeft State.framesLeft at hfuel
    exact ⟨decide_eq_false (by omega), decide_eq_false (by omega)⟩
  | succ fuel ih =>
    cases hsel : u.select with
    | none => exact ⟨u, selectLoop_of_none hsel _, hu⟩
    | some t =>
      obtain ⟨v, hv, hin, hless⟩ := hu.mux hticks hcap (State.avail_of_select hsel)
      obtain ⟨last, hloop, hlast⟩ := ih hin (by omega)
      exact ⟨last, by simp [selectLoop, hsel, hv, hloop], hlast⟩

theorem remuxPass_within (hs : s.Ok) (hgate : s.remuxGate = true) :
    ∃ u, remuxPass s = .done u ∧ InBudget s u ∧ u.select = none := by
  have hstart := hs.startsPass hgate
  have htables := remuxTables_of_le (s := s.releaseOutput.inPhase .tables) ((Nat.le_add_right _ _).trans hcap)
    hstart.outRegion
  have hbudget : InBudget s (s.releaseOutput.inPhase .tables).withTables :=
    ⟨remuxTables_keeps_ok hstart htables, rfl, le_rfl⟩
  obtain ⟨lead, hlead, hled⟩ := remuxLead_within hticks hcap (hbudget.inPhase .lead)
  obtain ⟨last, hloop, hlast⟩ := selectLoop_within hticks hcap (hled.inPhase .select) le_rfl
  exact ⟨last.inPhase .done, remuxPass_eq_done.mpr ⟨_, lead, last, htables, hlead, hloop, rfl⟩, hlast.inPhase .done,
    (selectLoop_done hloop :)⟩

end Budget

/-- Where no frame is left to select, all have been consumed. -/
theorem framesWritten_of_not_avail {s : State} {t : TrackId} (hok : (s.track t).Ok) (h : s.avail t = false) :
    (s.track t).framesWritten = (s.track t).nFrames := by
  have hnext : ¬ s.nextFrame t < (s.track t).nFrames.toNat := of_decide_eq_false h
  rw [State.nextFrame, hok.first] at hnext
  have hconsumed := hok.consumed
  exact BitVec.eq_of_toNat_eq (by simp at hnext; omega)

/-- Settles O39: every turn stays within the budget and so succeeds, until the selection finds no frame. -/
theorem remuxSucceedsWithEnoughOutput : Obligations.RemuxSucceedsWithEnoughOutput := by
  intro s hs hready hrepeat hvideo haudio hcap
  have hticks (t : TrackId) : s.ticksDefined t := by
    cases t
    · exact hvideo
    · exact haudio
  have hgate := remuxGate_of_ready hready (by rw [hs.video.first]; exact hrepeat)
  obtain ⟨u, hpass, hu, hnone⟩ := remuxPass_within hticks hcap hs hgate
  obtain ⟨hnov, hnoa⟩ := (select_eq_none_iff u).mp hnone
  obtain ⟨huok, _⟩ := hu.ok
  have hsame := State.eq_of_outsidePass hu.same
  have hframes (t : TrackId) : (u.track t).nFrames = (s.track t).nFrames := by
    rw [State.track_eq_of_outsidePass hu.same t]
  refine ⟨_, execRemux_of_done hgate hpass, rfl, ?_, ?_, rfl, rfl, rfl,
    (framesWritten_of_not_avail (s := u) (t := .video) huok.video hnov).trans (hframes .video),
    (framesWritten_of_not_avail (s := u) (t := .audio) huok.audio hnoa).trans (hframes .audio), huok.outSize,
    (Nat.le_add_right _ _).trans hu.room, rfl, rfl⟩
  · show u.errlog = s.errlog
    rw [hsame]
  · show u.session = .ready
    rw [hsame, hready]

end Sys2Proof.Machine
end

section

/-! No command faults in a good state: every store and load a command comes to lies in `M`, and the selections of a
pass come to their end (60_exceptions.md R258, 46_selector.md R211). -/

namespace Sys2Proof.Machine

/-! ## Work without a fault -/

/-- The work ends in a value or an error. -/
def Result.NoFault {α : Type} (r : Result α) : Prop := ∀ f, r ≠ .fault f

@[simp] theorem Result.noFault_ok {α : Type} (a : α) : (Result.ok a).NoFault := nofun
@[simp] theorem Result.noFault_err {α : Type} (e : ErrCode) : (Result.err e : Result α).NoFault := nofun

theorem Result.noFault_of_exists {α : Type} {r : Result α} (h : ∃ a, r = .ok a) : r.NoFault := by
  obtain ⟨a, rfl⟩ := h
  exact noFault_ok a

theorem Result.noFault_ofOption {α : Type} (e : ErrCode) (o : Option α) : (Result.ofOption e o).NoFault := by
  cases o <;> exact nofun

theorem Result.NoFault.bind {α β : Type} {r : Result α} {k : α → Result β} (hr : r.NoFault)
    (hk : ∀ a, r = .ok a → (k a).NoFault) : (r.bind k).NoFault := by
  cases r with
  | ok a => exact hk a rfl
  | err e => exact noFault_err e
  | fault f => exact absurd rfl (hr f)

/-! ## The units -/

theorem bwPut_noFault {w : Nat} (v : Nat) {s : State} (hb : s.bw.Ok) : (bwPut w v s).NoFault := by
  by_cases hbound : s.bw.bitcnt.toNat + w ≤ 8 * s.bw.bound.toNat
  · exact Result.noFault_of_exists (bwPut_succeeds hb hbound)
  · rw [bwPut, if_pos (not_le.mp hbound)]
    exact Result.noFault_err _

theorem bwPut64_noFault {w : Nat} (v : Nat) {s : State} (hb : s.bw.Ok) (hw : w ≤ 64) : (bwPut64 w v s).NoFault := by
  by_cases hbound : s.bw.bitcnt.toNat + w ≤ 8 * s.bw.bound.toNat
  · exact Result.noFault_of_exists (bwPut64_succeeds hb hw hbound)
  · rw [bwPut64, if_pos (not_le.mp hbound)]
    exact Result.noFault_err _

theorem pcrRequest_noFault (needPcr : Bool) (time : Word64) : (pcrRequest needPcr time).NoFault := by
  cases needPcr with
  | false => exact Result.noFault_ok none
  | true => exact (Result.noFault_ofOption _ _).bind fun p _ => Result.noFault_ok (some p)

theorem pesTicks_noFault (bias pts dts : Word64) : (pesTicks bias pts dts).NoFault :=
  (Result.noFault_ofOption _ _).bind fun _ _ => (Result.noFault_ofOption _ _).bind fun _ _ => Result.noFault_ok _

theorem load_noFault {s : State} {a n : Nat} (h : a + n ≤ Config.memSize) : (s.load a n).NoFault :=
  Result.noFault_of_exists ⟨_, s.load_of_le h⟩

theorem store_noFault {s : State} {a : Nat} {bs : List Byte} (h : a + bs.length ≤ Config.memSize) :
    (s.store a bs).NoFault := Result.noFault_of_exists ⟨_, s.store_of_le h⟩

theorem packetize_noFault {t : TrackId} {src size sid pid : Nat} {pts dts : Word64} {isPcr : Bool} {s : State}
    (hsrc : src + size ≤ Config.memSize) (hregion : s.outBase.toNat + s.outCap.toNat ≤ Config.memSize) :
    (packetize t src size pts dts sid pid isPcr s).NoFault := by
  refine (pesTicks_noFault _ _ _).bind fun ticks _ => (pcrRequest_noFault _ _).bind fun pcr _ =>
    (load_noFault hsrc).bind fun frame _ => ?_
  dsimp only
  split_ifs with hcap
  · exact Result.noFault_err _
  · exact (Result.noFault_of_exists (emitPackets_succeeds (not_lt.mp hcap) hregion)).bind fun _ _ =>
      Result.noFault_ok _

theorem appendFrame_noFault {t : TrackId} {src size pts dts : Word64} {key : Bool} {s : State}
    (hsrc : src.toNat + size.toNat ≤ Config.memSize)
    (hregion : (s.track t).tbufBase.toNat + (s.track t).tbufCap.toNat ≤ Config.memSize) :
    (appendFrame t src size pts dts key s).NoFault := by
  unfold appendFrame
  dsimp only
  split_ifs with hfinite hroom hcap
  · exact Result.noFault_err _
  · exact Result.noFault_err _
  · exact Result.noFault_err _
  · refine (load_noFault hsrc).bind fun frame hframe => (store_noFault ?_).bind fun _ _ => Result.noFault_ok _
    obtain ⟨_, rfl⟩ := State.load_ok hframe
    rw [Memory.length_readBytes]
    omega

/-! ## A remux pass -/

/-- The pass ends in a success or an error. -/
def Pass.NoFault (p : Pass) : Prop := ∀ f, p ≠ .fault f

theorem Pass.noFault_done (s : State) : (Pass.done s).NoFault := nofun

/-- A phase without a fault, and after it, where it succeeds, a rest without one. -/
theorem Pass.NoFault.phase {s : State} {r : Result State} {k : State → Pass} (hr : r.NoFault)
    (hk : ∀ u, r = .ok u → (k u).NoFault) : ((Pass.ofResult s r).andThen k).NoFault := by
  cases r with
  | ok u => exact hk u rfl
  | err e => exact nofun
  | fault f => exact absurd rfl (hr f)

theorem Pass.NoFault.andThen_done {p : Pass} (hp : p.NoFault) (g : State → State) :
    (p.andThen fun u => .done (g u)).NoFault := by
  cases p with
  | done u => exact nofun
  | failed e u => exact nofun
  | fault f => exact absurd rfl (hp f)

theorem remuxTables_noFault {s : State} (hs : s.OkInPass) : (remuxTables s).NoFault := by
  by_cases hcap : 376 ≤ s.outCap.toNat
  · exact Result.noFault_of_exists ⟨_, remuxTables_of_le hcap hs.outRegion⟩
  · rw [remuxTables, if_pos (not_le.mp hcap)]
    exact Result.noFault_err _

/-- The frames of a turn lie in the track's buffer, its packets go to the output region. -/
theorem mux_noFault {t : TrackId} {s : State} (hs : s.OkInPass) (havail : s.avail t = true) : (mux t s).NoFault := by
  have htrack : (s.track t).Ok := hs.1.track t
  have hbytes := (consumed_within htrack havail).2
  have hfits := htrack.fits
  have hregion := hs.trackRegion t
  exact (packetize_noFault (by omega) hs.outRegion).bind fun _ _ => Result.noFault_ok _

theorem remuxLead_noFault {s : State} (hs : s.OkInPass) : (remuxLead s).NoFault := by
  unfold remuxLead
  split_ifs with havail
  · exact mux_noFault hs havail
  · exact Result.noFault_ok s

/-- Every turn leaves fewer frames (46_selector.md R211). -/
theorem mux_allFramesLeft {t : TrackId} {s u : State} (hs : s.OkInPass) (havail : s.avail t = true)
    (h : mux t s = .ok u) : u.allFramesLeft < s.allFramesLeft := by
  have htrack : (s.track t).Ok := hs.1.track t
  have hbatch : 1 ≤ s.audioBatch.toNat := hs.1.config.audioBatch.1
  have hless := mux_framesLeft htrack hbatch havail h
  obtain ⟨_, hother⟩ := mux_other h
  unfold State.allFramesLeft
  cases t
  · have haudio := hother .audio nofun
    omega
  · have hvideo := hother .video nofun
    omega

theorem select_of_no_frames {s : State} (h : s.allFramesLeft = 0) : s.select = none := by
  unfold State.allFramesLeft State.framesLeft at h
  exact (select_eq_none_iff s).mpr ⟨decide_eq_false (by omega), decide_eq_false (by omega)⟩

/-- As many selections as frames left are enough. -/
theorem selectLoop_noFault {fuel : Nat} {s : State} (hs : s.OkInPass) (hfuel : s.allFramesLeft ≤ fuel) :
    (selectLoop fuel s).NoFault := by
  induction fuel generalizing s with
  | zero =>
    rw [selectLoop_of_none (select_of_no_frames (Nat.le_zero.mp hfuel))]
    exact Pass.noFault_done s
  | succ fuel ih =>
    cases hsel : s.select with
    | none =>
      rw [selectLoop_of_none hsel]
      exact Pass.noFault_done s
    | some t =>
      have havail := State.avail_of_select hsel
      simp only [selectLoop, hsel]
      refine .phase (mux_noFault hs havail) fun u hu => ih (mux_keeps_ok hs havail hu) ?_
      have hless := mux_allFramesLeft hs havail hu
      omega

theorem State.OkInPass.inPhase {s : State} (hs : s.OkInPass) (p : Phase) : (s.inPhase p).OkInPass := hs

theorem remuxPass_noFault {s : State} (hs : s.Ok) (hgate : s.remuxGate = true) : (remuxPass s).NoFault := by
  have hstart := hs.startsPass hgate
  refine .phase (remuxTables_noFault hstart) fun tables htables => ?_
  have htab := (remuxTables_keeps_ok hstart htables).inPhase .lead
  refine .phase (remuxLead_noFault htab) fun lead hlead => ?_
  have hled := (remuxLead_keeps_ok htab hlead).inPhase .select
  exact (selectLoop_noFault hled le_rfl).andThen_done _

/-! ## The commands -/

theorem noFault_gate {c : Prop} [Decidable c] {e : ErrCode} {s : State} {o : Out State} (h : ¬ c → noFault o) :
    noFault (if c then raise e s else o) := by
  split_ifs with hc
  · trivial
  · exact h hc

theorem noFault_refusal {c : Prop} [Decidable c] {x : Refusal} {o : Out State} (h : noFault o) :
    noFault (if c then .refused x else o) := by
  split_ifs
  · trivial
  · exact h

theorem noFault_conclude {α : Type} {s : State} {r : Result α} {k : α → Out State} (hr : r.NoFault)
    (hk : ∀ a, r = .ok a → noFault (k a)) : noFault (conclude s r k) := by
  cases r with
  | ok a => exact hk a rfl
  | err e => trivial
  | fault f => exact absurd rfl (hr f)

section Commands
variable {s : State}

theorem execPutBits_noFault (hs : s.Ok) (width : BitVec 8) (value : Word64) :
    noFault (execPutBits width value s) :=
  noFault_gate fun hvalid => noFault_gate fun _ =>
    noFault_conclude (bwPut_noFault _ (hs.writer (by simpa using hvalid))) fun _ _ => noFault_refusal trivial

theorem execPutBits64_noFault (hs : s.Ok) (width : BitVec 8) (value : Word64) :
    noFault (execPutBits64 width value s) :=
  noFault_gate fun hvalid => noFault_gate fun hw =>
    noFault_conclude (bwPut64_noFault _ (hs.writer (by simpa using hvalid)) (not_lt.mp hw)) fun _ _ =>
      noFault_refusal trivial

theorem execBwFlush_noFault (hs : s.Ok) : noFault (execBwFlush s) :=
  noFault_gate fun hvalid =>
    noFault_conclude (Result.noFault_of_exists (bwFlush_succeeds (hs.writer (by simpa using hvalid)))) fun _ _ =>
      noFault_refusal trivial

theorem execCrc32_noFault (seed addr len : Word64) : noFault (execCrc32 seed addr len s) :=
  noFault_gate fun hrange => by
    obtain ⟨_, _, hmem⟩ := (regionOk_iff addr len).mp (by simpa using hrange)
    exact noFault_conclude (load_noFault hmem) fun _ _ => trivial

theorem execTsHdr_noFault (pusi needPcr disc : Bool) (dst cc pid pcrTime payloadSize : Word64) :
    noFault (execTsHdr pusi needPcr disc dst cc pid pcrTime payloadSize s) := by
  refine noFault_gate fun hrange => noFault_conclude (pcrRequest_noFault _ _) fun pcr _ => noFault_refusal ?_
  rw [Bool.not_eq_true', Bool.not_eq_false, Bool.and_eq_true] at hrange
  obtain ⟨_, hmem⟩ := (packetRoomOk_iff dst).mp hrange.1
  refine noFault_conclude (store_noFault ?_) fun _ _ => trivial
  rw [length_tsHeader]
  have hlength := (tsHeaderLength_fills pcr.isSome disc payloadSize.toNat).1
  omega

theorem execPesHdr_noFault (streamId : BitVec 8) (dst bound payloadSize pts dts : Word64) :
    noFault (execPesHdr streamId dst bound payloadSize pts dts s) := by
  refine noFault_gate fun hrange => noFault_conclude (pesTicks_noFault _ _ _) fun ticks _ =>
    noFault_gate fun hbound => noFault_refusal ?_
  simp only [Bool.not_eq_true', Bool.not_eq_false, Bool.and_eq_true] at hrange
  obtain ⟨_, _, hmem⟩ := (regionOk_iff dst bound).mp hrange.1.1.1
  exact noFault_conclude (store_noFault (by omega)) fun _ _ => trivial

theorem writeTable_noFault {dst : Word64} {packet : List Byte} (hpacket : packet.length = 188) :
    noFault (writeTable dst packet s) := by
  refine noFault_gate fun hroom => noFault_refusal ?_
  obtain ⟨_, hmem⟩ := (packetRoomOk_iff dst).mp (by simpa using hroom)
  exact noFault_conclude (store_noFault (by omega)) fun _ _ => trivial

/-- In a good state of a session the regions lie in `M` (47_session.md R226). -/
theorem State.Ok.okInPass (hs : s.Ok) (hon : s.session ≠ .off) : s.OkInPass :=
  ⟨by rwa [show s.inPhase .idle = s by rw [← hs.phase]; rfl], hon⟩

theorem execPack_noFault (hs : s.Ok) (pcr track : Bool) (src size pts dts streamId pid : Word64) :
    noFault (execPack pcr track src size pts dts streamId pid s) := by
  refine noFault_gate fun hready => noFault_gate fun hrange => ?_
  have hon : s.session ≠ .off := by rw [not_not.mp hready]; decide
  simp only [Bool.not_eq_true', Bool.not_eq_false, Bool.and_eq_true] at hrange
  obtain ⟨_, _, hmem⟩ := (regionOk_iff src size).mp hrange.1.1
  exact noFault_conclude (packetize_noFault hmem (hs.okInPass hon).outRegion) fun _ _ => noFault_refusal trivial

theorem execRemux_noFault (hs : s.Ok) : noFault (execRemux s) := by
  refine noFault_gate fun hgate => ?_
  have hpass := remuxPass_noFault hs (by simpa using hgate)
  split
  · trivial
  · trivial
  · next f hfault => exact absurd hfault (hpass f)

theorem appendCommand_noFault (hs : s.Ok) (hready : s.session = .ready) {src size : Word64}
    (hrange : regionOk src size = true) (t : TrackId) (pts dts : Word64) (key : Bool) (finish : State → State) :
    noFault (appendCommand t src size pts dts key finish s) := by
  have hon : s.session ≠ .off := by rw [hready]; decide
  obtain ⟨_, _, hmem⟩ := (regionOk_iff src size).mp hrange
  exact noFault_conclude (appendFrame_noFault hmem ((hs.okInPass hon).trackRegion t)) fun _ _ =>
    noFault_refusal trivial

theorem execAppend_noFault (hs : s.Ok) (track key : Bool) (src size pts dts : Word64) :
    noFault (execAppend track key src size pts dts s) :=
  noFault_gate fun hready => noFault_gate fun hrange =>
    appendCommand_noFault hs (not_not.mp hready) (by simpa using hrange) _ _ _ _ _

theorem acceptFrame_noFault (hs : s.Ok) (t : TrackId) (key : Bool) (src size encStatus : Word64) :
    noFault (acceptFrame t key src size encStatus s) :=
  noFault_gate fun hready => noFault_gate fun hrange => noFault_gate fun _ =>
    appendCommand_noFault hs (not_not.mp hready) (by simpa using hrange) _ _ _ _ _

end Commands

/-- No command faults in a good state. -/
theorem exec_noFault {s : State} (hs : s.Ok) (i : Instr) : noFault (exec i s) := by
  cases i with
  | bwInit => exact noFault_gate fun _ => noFault_refusal trivial
  | putBits => exact execPutBits_noFault hs _ _
  | putBits64 => exact execPutBits64_noFault hs _ _
  | bwFlush => exact execBwFlush_noFault hs
  | bwCount => exact noFault_gate fun _ => trivial
  | wrreg => exact noFault_gate fun _ => noFault_gate fun _ => noFault_gate fun _ => trivial
  | rdreg => exact trivial
  | crc32 => exact execCrc32_noFault _ _ _
  | tsHdr => exact execTsHdr_noFault _ _ _ _ _ _ _ _
  | pesHdr => exact execPesHdr_noFault _ _ _ _ _ _
  | pack => exact execPack_noFault hs _ _ _ _ _ _ _ _
  | pat => exact writeTable_noFault (length_patPacket _ _)
  | pmt => exact writeTable_noFault (length_pmtPacket _ _)
  | remux => exact execRemux_noFault hs
  | init => exact noFault_gate fun _ => noFault_gate fun _ => noFault_gate fun _ => noFault_gate fun _ => trivial
  | append => exact execAppend_noFault hs _ _ _ _ _ _
  | acceptV => exact acceptFrame_noFault hs _ _ _ _ _
  | acceptA => exact acceptFrame_noFault hs _ _ _ _ _
  | reset => exact noFault_gate fun _ => trivial
  | teardown => exact trivial

/-! ## Steps and runs -/

/-- Settles O57: a step that runs a command runs it in a good state, as the invariant does not read the port. -/
theorem goodStatesNeverFault : Obligations.GoodStatesNeverFault := by
  intro s hs
  rcases step_cases s with ⟨_, hstep⟩ | ⟨_, hstep⟩ | ⟨_, hstep⟩ | ⟨_, rest, _, hstep⟩ | ⟨i, rest, _, hstep⟩ <;>
    rw [hstep]
  · trivial
  · trivial
  · trivial
  · trivial
  · exact exec_noFault (hs.setPort rest) i

theorem safeRun_succ_of_next {n : Nat} {s u : State} (h : step s = .next u) : safeRun (n + 1) s ↔ safeRun n u := by
  have hcore : Sys2Proof.core.step s = .next u := h
  simp only [safeRun, Host.Core.run, hcore]

theorem safeRun_succ_of_refused {n : Nat} {s : State} {x : Refusal} (h : step s = .refused x) : safeRun (n + 1) s := by
  have hcore : Sys2Proof.core.step s = .refused x := h
  simp only [safeRun, Host.Core.run, hcore]
  trivial

/-- Every run from a good state is safe: no step faults (O57), and every step keeps the state good (O56). -/
theorem safeRun_of_ok (n : Nat) {s : State} (hs : s.Ok) : safeRun n s := by
  induction n generalizing s with
  | zero => trivial
  | succ n ih =>
    have hsafe := goodStatesNeverFault s hs
    cases hstep : step s with
    | next u => exact (safeRun_succ_of_next hstep).mpr (ih (stepKeepsTheGoodState s u hs hstep))
    | fault f =>
      rw [hstep] at hsafe
      exact hsafe.elim
    | refused x => exact safeRun_succ_of_refused hstep

/-- Settles O58: hardware reset leaves a good state (O8), and words sent to the port leave it good. -/
theorem runsFromResetNeverFault : Obligations.RunsFromResetNeverFault := by
  intro contents ws n hwf
  exact safeRun_of_ok n ((resetStateIsGood.2 contents hwf).setPort _)

end Sys2Proof.Machine
end

section

/-! The session and the configuration: of all commands `WRREG` alone changes a configuration register, and `INIT`, a
failing `REMUX`, `RESET` and `TEARDOWN` alone the session (47_session.md R225; 70_reset_and_hazards.md R276, R288). -/

namespace Sys2Proof.Machine

/-! ## The configuration of a state (10_state.md R24) -/

/-- The configuration registers of a track. -/
structure TrackSettings where
  codec : BitVec 8
  repeatSeg : Bool
  hasDts : Bool
  tbufBase : Word32
  tbufCap : Word32

/-- The configuration registers of a state. -/
structure Settings where
  pmtPid : BitVec 13
  tsid : BitVec 16
  bias : Word64
  audioBatch : Word32
  outBase : Word32
  outCap : Word32
  video : TrackSettings
  audio : TrackSettings

def TrackState.settings (tr : TrackState) : TrackSettings :=
  ⟨tr.codec, tr.repeatSeg, tr.hasDts, tr.tbufBase, tr.tbufCap⟩

def State.settings (s : State) : Settings :=
  ⟨s.pmtPid, s.tsid, s.bias, s.audioBatch, s.outBase, s.outCap, s.video.settings, s.audio.settings⟩

theorem configuration_of_settings {s t : State} (h : t.settings = s.settings) :
    t.pmtPid = s.pmtPid ∧ t.tsid = s.tsid ∧ t.bias = s.bias ∧ t.audioBatch = s.audioBatch ∧
      ∀ tr : TrackId, (t.track tr).codec = (s.track tr).codec ∧
        (t.track tr).repeatSeg = (s.track tr).repeatSeg ∧ (t.track tr).hasDts = (s.track tr).hasDts := by
  refine ⟨congrArg Settings.pmtPid h, congrArg Settings.tsid h, congrArg Settings.bias h,
    congrArg Settings.audioBatch h, fun tr => ?_⟩
  have htrack : (t.track tr).settings = (s.track tr).settings := by
    cases tr
    · exact congrArg Settings.video h
    · exact congrArg Settings.audio h
  exact ⟨congrArg TrackSettings.codec htrack, congrArg TrackSettings.repeatSeg htrack,
    congrArg TrackSettings.hasDts htrack⟩

/-- The regions a configuration names. -/
def Settings.regions (c : Settings) : List (Nat × Nat) :=
  [(c.video.tbufBase.toNat, c.video.tbufCap.toNat), (c.audio.tbufBase.toNat, c.audio.tbufCap.toNat),
   (c.outBase.toNat, c.outCap.toNat)]

theorem sessionRegions_of_settings {s t : State} (h : t.settings = s.settings) :
    t.sessionRegions = s.sessionRegions := congrArg Settings.regions h

theorem State.settings_setTrack {s : State} {t : TrackId} {tr : TrackState}
    (h : tr.settings = (s.track t).settings) : (s.setTrack t tr).settings = s.settings := by
  cases t
  · exact congrArg (fun v => { s.settings with video := v }) h
  · exact congrArg (fun v => { s.settings with audio := v }) h

/-! ## Steps that keep both -/

/-- Neither the session nor the configuration changes. -/
def KeepsSettings (s t : State) : Prop := t.session = s.session ∧ t.settings = s.settings

theorem KeepsSettings.trans {s t u : State} (hst : KeepsSettings s t) (htu : KeepsSettings t u) :
    KeepsSettings s u := ⟨htu.1.trans hst.1, htu.2.trans hst.2⟩

theorem KeepsSettings.setTrack {s : State} {t : TrackId} {tr : TrackState}
    (h : tr.settings = (s.track t).settings) : KeepsSettings s (s.setTrack t tr) :=
  ⟨State.setTrack_session s t tr, State.settings_setTrack h⟩

theorem Raised.keepsSettings {s t : State} (h : Raised s t) : KeepsSettings s t := by
  obtain ⟨e, rfl⟩ := h
  exact ⟨rfl, rfl⟩

theorem Built.keepsSettings {s t : State} (h : Built s t) : KeepsSettings s t := by
  obtain ⟨_, _, _, _, _, rfl⟩ := h
  exact ⟨rfl, rfl⟩

theorem WriterStep.keepsSettings {s u : State} (h : WriterStep s u) : KeepsSettings s u := by
  obtain ⟨_, _, rfl, _, _⟩ := h
  exact ⟨rfl, rfl⟩

theorem packetize_keepsSettings {t : TrackId} {src size sid pid n : Nat} {pts dts : Word64} {isPcr : Bool}
    {s u : State} (h : packetize t src size pts dts sid pid isPcr s = .ok (u, n)) : KeepsSettings s u := by
  obtain ⟨m, cc, _, _, rfl⟩ := packetize_step h
  refine KeepsSettings.trans (t := { s with mem := m, outWr := _, outPkts := _ }) ⟨rfl, rfl⟩ (.setTrack ?_)
  cases t <;> rfl

theorem keepsSettings_of_outsidePass {s u : State} (h : u.outsidePass = s.outsidePass) : KeepsSettings s u :=
  ⟨(congrArg State.session h :), (congrArg State.settings h :)⟩

theorem appendFrame_keepsSettings {t : TrackId} {src size pts dts : Word64} {key : Bool} {s u : State}
    (h : appendFrame t src size pts dts key s = .ok u) : KeepsSettings s u := by
  obtain ⟨_, _, _, _, _, rfl⟩ := appendFrame_ok h
  refine KeepsSettings.trans (t := { s with mem := _ }) ⟨rfl, rfl⟩ (.setTrack ?_)
  cases t <;> rfl

theorem Appended.keepsSettings {t0 : TrackId} {finish : State → State} {s t : State}
    (h : Appended t0 finish s t) (hfinish : ∀ u, KeepsSettings u (finish u)) : KeepsSettings s t := by
  obtain ⟨_, src, size, pts, dts, key, u, r0, r1, _, happend, rfl⟩ := h
  exact (appendFrame_keepsSettings happend).trans ((hfinish u).trans ⟨rfl, rfl⟩)

theorem keepsSettings_advanceTime (t0 : TrackId) (u : State) : KeepsSettings u (u.advanceTime t0) :=
  .setTrack rfl

theorem State.writeReg_session (s : State) (v : Word64) (reg : Reg) : (s.writeReg v reg).session = s.session := by
  rcases reg with g | ⟨t, k⟩
  · cases g <;> rfl
  · exact State.setTrack_session s t _

/-- A register that is writable in a session names no region (10_state.md R24). -/
theorem sessionRegions_writeReg {reg : Reg} (h : reg.access ≠ .rwOff) (s : State) (v : Word64) :
    (s.writeReg v reg).sessionRegions = s.sessionRegions := by
  rcases reg with g | ⟨t, k⟩
  · cases g
    case outBase | outCap => exact absurd rfl h
    all_goals rfl
  · cases k
    case tbufBase | tbufCap => exact absurd rfl h
    all_goals cases t <;> rfl

/-! ## The life cycle (47_session.md R225) -/

/-- The command `i` changes the session as the life cycle says. -/
def ChangesSession (i : Instr) (s t : State) : Prop :=
  (s.session = .off ∧ t.session = .ready ∧ ∃ f r c, i = .init f r c) ∨
  (s.session = .ready ∧ t.session = .failed ∧ i = .remux ∧ t.err ≠ .ok) ∨
  (s.session = .failed ∧ t.session = .ready ∧ i = .reset) ∨
  (t.session = .off ∧ i = .teardown)

theorem execInit_settings {f r c : Word64} {s t : State} (h : execInit f r c s = .next t) :
    t.settings = s.settings ∧ (t.session = s.session ∨ ChangesSession (.init f r c) s t) := by
  by_cases hoff : s.session = .off
  · rcases execInit_next h with he | ⟨_, _, _, rfl⟩
    · obtain ⟨hsession, hsettings⟩ := he.keepsSettings
      exact ⟨hsettings, .inl hsession⟩
    · exact ⟨rfl, .inr (.inl ⟨hoff, rfl, f, r, c, rfl⟩)⟩
  · rw [execInit, if_pos hoff] at h
    obtain rfl := raise_next h
    exact ⟨rfl, .inl rfl⟩

theorem execRemux_settings {s t : State} (h : execRemux s = .next t) :
    t.settings = s.settings ∧ (t.session = s.session ∨ ChangesSession .remux s t) := by
  have hsame := remuxPass_outsidePass s
  rcases execRemux_next h with he | ⟨hgate, ⟨u, hdone, rfl⟩ | ⟨e, u, hfailed, rfl⟩⟩
  · obtain ⟨hsession, hsettings⟩ := he.keepsSettings
    exact ⟨hsettings, .inl hsession⟩
  · rw [hdone] at hsame
    obtain ⟨hsession, hsettings⟩ := keepsSettings_of_outsidePass hsame
    exact ⟨hsettings, .inl hsession⟩
  · rw [hfailed] at hsame
    refine ⟨(keepsSettings_of_outsidePass hsame).2, .inr (.inr (.inl ⟨session_of_remuxGate hgate, rfl, rfl, ?_⟩))⟩
    rw [State.raiseError_err]
    rcases remuxPass_err hfailed with rfl | rfl <;> nofun

theorem execReset_settings {s t : State} (h : execReset s = .next t) :
    t.settings = s.settings ∧ (t.session = s.session ∨ ChangesSession .reset s t) := by
  rcases execReset_next h with he | ⟨hon, rfl⟩
  · obtain ⟨hsession, hsettings⟩ := he.keepsSettings
    exact ⟨hsettings, .inl hsession⟩
  · refine ⟨rfl, ?_⟩
    cases hsession : s.session with
    | off => exact absurd hsession hon
    | ready => exact .inl rfl
    | failed => exact .inr (.inr (.inr (.inl ⟨hsession, rfl, rfl⟩)))

/-- All that a command can do to the session and the configuration. -/
theorem exec_settings {i : Instr} {s t : State} (h : exec i s = .next t) :
    KeepsSettings s t ∨
    (∃ reg value, i = .wrreg reg value ∧ (reg.access = .rwOff → s.session = .off) ∧
      t = (s.writeReg value reg).complete 0#64 0#64) ∨
    (t.settings = s.settings ∧ (t.session = s.session ∨ ChangesSession i s t)) := by
  cases i with
  | bwInit =>
    rcases execBwInit_next h with he | ⟨_, rfl⟩
    · exact .inl he.keepsSettings
    · exact .inl ⟨rfl, rfl⟩
  | putBits =>
    rcases execPutBits_next h with he | ⟨_, hw, u, hu, rfl⟩
    · exact .inl he.keepsSettings
    · exact .inl (bwPut_step hw hu).keepsSettings
  | putBits64 =>
    rcases execPutBits64_next h with he | ⟨_, hw, u, hu, rfl⟩
    · exact .inl he.keepsSettings
    · exact .inl (bwPut64_step hw hu).keepsSettings
  | bwFlush =>
    rcases execBwFlush_next h with he | ⟨_, u, hu, rfl⟩
    · exact .inl he.keepsSettings
    · exact .inl (bwFlush_step hu).keepsSettings
  | bwCount =>
    rcases execBwCount_next h with he | rfl
    · exact .inl he.keepsSettings
    · exact .inl ⟨rfl, rfl⟩
  | wrreg reg value =>
    rcases execWrreg_next h with he | ⟨hoff, _, rfl⟩
    · exact .inl he.keepsSettings
    · exact .inr (.inl ⟨reg, value, rfl, hoff, rfl⟩)
  | rdreg =>
    obtain rfl := succeed_next h
    exact .inl ⟨rfl, rfl⟩
  | crc32 =>
    rcases execCrc32_next h with he | ⟨_, rfl⟩
    · exact .inl he.keepsSettings
    · exact .inl ⟨rfl, rfl⟩
  | tsHdr => exact .inl ((execTsHdr_next h).elim (·.keepsSettings) (·.keepsSettings))
  | pesHdr => exact .inl ((execPesHdr_next h).elim (·.keepsSettings) (·.keepsSettings))
  | pack =>
    rcases execPack_next h with he | ⟨_, u, n, r1, hpack, rfl⟩
    · exact .inl he.keepsSettings
    · exact .inl ((packetize_keepsSettings hpack).trans ⟨rfl, rfl⟩)
  | pat => exact .inl ((writeTable_next h).elim (·.keepsSettings) (·.keepsSettings))
  | pmt => exact .inl ((writeTable_next h).elim (·.keepsSettings) (·.keepsSettings))
  | remux => exact .inr (.inr (execRemux_settings h))
  | init => exact .inr (.inr (execInit_settings h))
  | append =>
    rcases execAppend_next h with he | ha
    · exact .inl he.keepsSettings
    · exact .inl (ha.keepsSettings fun _ => ⟨rfl, rfl⟩)
  | acceptV =>
    rcases acceptFrame_next h with he | ha
    · exact .inl he.keepsSettings
    · exact .inl (ha.keepsSettings (keepsSettings_advanceTime _))
  | acceptA =>
    rcases acceptFrame_next h with he | ha
    · exact .inl he.keepsSettings
    · exact .inl (ha.keepsSettings (keepsSettings_advanceTime _))
  | reset => exact .inr (.inr (execReset_settings h))
  | teardown =>
    obtain rfl := succeed_next h
    exact .inr (.inr ⟨rfl, .inr (.inr (.inr (.inr ⟨rfl, rfl⟩)))⟩)

/-- Settles O48: `exec_settings`, and `WRREG` writes no field of the session. -/
theorem sessionLifeCycle : Obligations.SessionLifeCycle := by
  intro i s t h
  rcases exec_settings h with ⟨hsession, _⟩ | ⟨reg, value, _, _, rfl⟩ | ⟨_, hchange⟩
  · exact .inl hsession
  · exact .inl (s.writeReg_session value reg)
  · exact hchange

/-- Settles O50: `exec_settings`, and what `WRREG` may write in a session names no region. -/
theorem configurationChangesOnlyByWrreg : Obligations.ConfigurationChangesOnlyByWrreg := by
  intro i s t h
  rcases exec_settings h with ⟨_, hsame⟩ | ⟨reg, value, rfl, hoff, rfl⟩ | ⟨hsame, _⟩
  · exact ⟨fun _ => configuration_of_settings hsame, fun _ => sessionRegions_of_settings hsame⟩
  · refine ⟨fun hnot => absurd rfl (hnot reg value), fun hcase => ?_⟩
    have hon : s.session ≠ .off := hcase.resolve_left fun hnot => hnot reg value rfl
    exact sessionRegions_writeReg (mt hoff hon) s value
  · exact ⟨fun _ => configuration_of_settings hsame, fun _ => sessionRegions_of_settings hsame⟩

end Sys2Proof.Machine
end

section

/-! The errors of the commands: what an error leaves of the state, and which commands end in `E_STATE`
(60_exceptions.md R253, R256, R262). -/

namespace Sys2Proof.Machine

/-! ## What an error leaves (R262) -/

theorem Built.err_ok {s t : State} (h : Built s t) : t.err = .ok := by
  obtain ⟨_, _, _, _, _, rfl⟩ := h
  rfl

theorem Appended.err_ok {t0 : TrackId} {finish : State → State} {s t : State} (h : Appended t0 finish s t) :
    t.err = .ok := by
  obtain ⟨_, _, _, _, _, _, _, _, _, _, _, rfl⟩ := h
  rfl

/-- A command ends in an error that leaves everything else as it was, or in a success; a `REMUX` past its gate may fail
otherwise (46_selector.md R214). -/
theorem exec_raised_or_ok {i : Instr} {s t : State} (h : exec i s = .next t) :
    Raised s t ∨ t.err = .ok ∨ (i = .remux ∧ s.remuxGate = true) := by
  cases i with
  | bwInit => exact (execBwInit_next h).imp_right fun ⟨_, ht⟩ => .inl (congrArg State.err ht)
  | putBits => exact (execPutBits_next h).imp_right fun ⟨_, _, _, _, ht⟩ => .inl (congrArg State.err ht)
  | putBits64 => exact (execPutBits64_next h).imp_right fun ⟨_, _, _, _, ht⟩ => .inl (congrArg State.err ht)
  | bwFlush => exact (execBwFlush_next h).imp_right fun ⟨_, _, _, ht⟩ => .inl (congrArg State.err ht)
  | bwCount => exact (execBwCount_next h).imp_right fun ht => .inl (congrArg State.err ht)
  | wrreg => exact (execWrreg_next h).imp_right fun ⟨_, _, ht⟩ => .inl (congrArg State.err ht)
  | rdreg => exact .inr (.inl (congrArg State.err (succeed_next h)))
  | crc32 => exact (execCrc32_next h).imp_right fun ⟨_, ht⟩ => .inl (congrArg State.err ht)
  | tsHdr => exact (execTsHdr_next h).imp_right fun hb => .inl hb.err_ok
  | pesHdr => exact (execPesHdr_next h).imp_right fun hb => .inl hb.err_ok
  | pack => exact (execPack_next h).imp_right fun ⟨_, _, _, _, _, ht⟩ => .inl (congrArg State.err ht)
  | pat => exact (writeTable_next h).imp_right fun hb => .inl hb.err_ok
  | pmt => exact (writeTable_next h).imp_right fun hb => .inl hb.err_ok
  | remux => exact (execRemux_next h).imp_right fun ⟨hgate, _⟩ => .inr ⟨rfl, hgate⟩
  | init => exact (execInit_next h).imp_right fun ⟨_, _, _, ht⟩ => .inl (congrArg State.err ht)
  | append => exact (execAppend_next h).imp_right fun ha => .inl ha.err_ok
  | acceptV => exact (acceptFrame_next h).imp_right fun ha => .inl ha.err_ok
  | acceptA => exact (acceptFrame_next h).imp_right fun ha => .inl ha.err_ok
  | reset => exact (execReset_next h).imp_right fun ⟨_, ht⟩ => .inl (congrArg State.err ht)
  | teardown => exact .inr (.inl (congrArg State.err (succeed_next h)))

theorem Raised.eq_raiseError {s t : State} (h : Raised s t) : t = s.raiseError t.err := by
  obtain ⟨e, rfl⟩ := h
  rfl

/-- `ERRLOG` after every command but `TEARDOWN`: an error sets its own bit, and a success none (10_state.md R23). -/
theorem exec_errlog {i : Instr} {s t : State} (hclose : i ≠ .teardown) (h : exec i s = .next t) :
    t.errlog = if t.err = .ok then s.errlog else logError s.errlog t.err := by
  by_cases hread : ∃ reg, i = .rdreg reg
  · obtain ⟨reg, rfl⟩ := hread
    obtain rfl := succeed_next h
    rfl
  · have hcarry := exec_withReports (fun reg hi => hread ⟨reg, hi⟩) hclose s ⟨s.err, s.errlog, s.res0, s.res1⟩
    have hsame : s.withReports ⟨s.err, s.errlog, s.res0, s.res1⟩ = s := rfl
    rw [hsame, h] at hcarry
    exact congrArg State.errlog (Host.Outcome.next.inj hcarry)

/-- Settles O52: `exec_raised_or_ok` for the errors that change nothing else, `remuxFailed` for the exception, and
`exec_errlog` for the sticky bits. -/
theorem errorsArePrecise : Obligations.ErrorsArePrecise := by
  intro i s t h
  refine ⟨fun herr hgate => ?_, ?_, fun hok => ?_⟩
  · rcases exec_raised_or_ok h with he | hok | ⟨hi, hopen⟩
    · exact he.eq_raiseError
    · exact absurd hok herr
    · rcases hgate with hne | hclosed
      · exact absurd hi hne
      · rw [hopen] at hclosed
        cases hclosed
  · rintro herr rfl hgate
    have hlog := exec_errlog (i := .remux) nofun h
    rw [if_neg herr] at hlog
    obtain ⟨e, u, _, hfailed⟩ := execRemux_err hgate h herr
    obtain rfl := raise_next hfailed
    exact ⟨rfl, rfl, rfl, rfl, rfl, hlog, rfl, rfl⟩
  · split_ifs with hclose
    · subst hclose
      obtain rfl := succeed_next h
      rfl
    · rw [exec_errlog hclose h, if_pos hok]

/-! ## Outcomes other than `E_STATE` -/

/-- The command does not end in `E_STATE`. -/
def NoStateError (o : Out State) : Prop := ∀ t, o = .next t → t.err ≠ .state

theorem noStateError_raise {e : ErrCode} (he : e ≠ .state) (s : State) : NoStateError (raise e s) := by
  intro t h
  rwa [raise_next h]

theorem noStateError_succeed (r0 r1 : Word64) (s : State) : NoStateError (succeed r0 r1 s) := by
  intro t h
  rw [succeed_next h]
  nofun

theorem noStateError_gate {c : Prop} [Decidable c] {e : ErrCode} {s : State} {o : Out State} (he : e ≠ .state)
    (h : NoStateError o) : NoStateError (if c then raise e s else o) := by
  split_ifs
  · exact noStateError_raise he s
  · exact h

theorem noStateError_refusal {c : Prop} [Decidable c] {x : Refusal} {o : Out State} (h : NoStateError o) :
    NoStateError (if c then .refused x else o) := by
  split_ifs
  · intro t ht
    cases ht
  · exact h

theorem noStateError_conclude {α : Type} {s : State} {r : Result α} {k : α → Out State} (hr : r ≠ .err .state)
    (hk : ∀ a, NoStateError (k a)) : NoStateError (conclude s r k) := by
  cases r with
  | ok a => exact hk a
  | err e => exact noStateError_raise (fun he => hr (he ▸ rfl)) s
  | fault f =>
    intro t h
    cases h

/-- A state gate before work that does not end in `E_STATE` decides whether the command does. -/
theorem stateGate_iff {c : Prop} [Decidable c] {s : State} {o : Out State} (h : NoStateError o) :
    (if c then raise .state s else o) = .next (s.raiseError .state) ↔ c := by
  split_ifs with hc
  · exact iff_of_true rfl hc
  · exact iff_of_false (fun ho => h _ ho rfl) hc

theorem boolGate_iff {b : Bool} {s : State} {o : Out State} (h : NoStateError o) :
    (if !b then raise .state s else o) = .next (s.raiseError .state) ↔ b = false := by
  rw [stateGate_iff h, Bool.not_eq_true']

theorem noGate_iff {s : State} {o : Out State} (h : NoStateError o) : o = .next (s.raiseError .state) ↔ False :=
  iff_of_false (fun ho => h _ ho rfl) id

/-! ## The errors of the units -/

theorem bwPut_err {w v : Nat} {s : State} {e : ErrCode} (h : bwPut w v s = .err e) : e = .bwBound := by
  rcases bwPut_cases w v s with ⟨_, hput⟩ | ⟨_, _, hput⟩ | ⟨_, _, hput⟩ <;> rw [hput] at h
  · exact (Result.err.inj h).symm
  · cases h
  · rcases Result.bind_eq_err.mp h with h | ⟨_, _, h⟩
    · exact absurd h (s.store_not_err _ _ e)
    · cases h

theorem bwPut64_err {w v : Nat} {s : State} {e : ErrCode} (h : bwPut64 w v s = .err e) : e = .bwBound := by
  unfold bwPut64 at h
  split_ifs at h
  · exact (Result.err.inj h).symm
  · exact bwPut_err h
  · rcases Result.bind_eq_err.mp h with h | ⟨_, _, h⟩
    · exact bwPut_err h
    · exact bwPut_err h

theorem bwFlush_not_err (s : State) (e : ErrCode) : bwFlush s ≠ .err e := by
  intro h
  rcases Result.bind_eq_err.mp h with h | ⟨_, _, h⟩
  · exact s.store_not_err _ _ e h
  · cases h

theorem appendFrame_err {t : TrackId} {src size pts dts : Word64} {key : Bool} {s : State} {e : ErrCode}
    (h : appendFrame t src size pts dts key s = .err e) : e = .range ∨ e = .capacity ∨ e = .overflow := by
  unfold appendFrame at h
  dsimp only at h
  split_ifs at h
  · exact .inl (Result.err.inj h).symm
  · exact .inr (.inl (Result.err.inj h).symm)
  · exact .inr (.inr (Result.err.inj h).symm)
  · rcases Result.bind_eq_err.mp h with h | ⟨_, _, h⟩
    · exact absurd h (s.load_not_err _ _ e)
    rcases Result.bind_eq_err.mp h with h | ⟨_, _, h⟩
    · exact absurd h (s.store_not_err _ _ e)
    · cases h

/-! ## The commands (R256) -/

section Commands
variable {s : State}

theorem execPutBits_state_iff (width : BitVec 8) (value : Word64) :
    execPutBits width value s = .next (s.raiseError .state) ↔ s.bwValid = false :=
  boolGate_iff <| noStateError_gate nofun <| noStateError_conclude (fun h => by cases bwPut_err h) fun _ =>
    noStateError_refusal (noStateError_succeed _ _ _)

theorem execPutBits64_state_iff (width : BitVec 8) (value : Word64) :
    execPutBits64 width value s = .next (s.raiseError .state) ↔ s.bwValid = false :=
  boolGate_iff <| noStateError_gate nofun <| noStateError_conclude (fun h => by cases bwPut64_err h) fun _ =>
    noStateError_refusal (noStateError_succeed _ _ _)

theorem execBwFlush_state_iff : execBwFlush s = .next (s.raiseError .state) ↔ s.bwValid = false :=
  boolGate_iff <| noStateError_conclude (bwFlush_not_err s _) fun _ =>
    noStateError_refusal (noStateError_succeed _ _ _)

theorem execBwCount_state_iff : execBwCount s = .next (s.raiseError .state) ↔ s.bwValid = false :=
  boolGate_iff (noStateError_succeed _ _ _)

theorem execWrreg_state_iff {reg : Reg} (hw : reg.access ≠ .ro) (value : Word64) :
    execWrreg reg value s = .next (s.raiseError .state) ↔ reg.access = .rwOff ∧ s.session ≠ .off := by
  rw [execWrreg, if_neg hw]
  exact stateGate_iff (noStateError_gate nofun (noStateError_succeed _ _ _))

theorem execCrc32_noStateError (seed addr len : Word64) : NoStateError (execCrc32 seed addr len s) :=
  noStateError_gate nofun <| noStateError_conclude (s.load_not_err _ _ _) fun _ => noStateError_succeed _ _ _

theorem execTsHdr_noStateError (pusi needPcr disc : Bool) (dst cc pid pcrTime payloadSize : Word64) :
    NoStateError (execTsHdr pusi needPcr disc dst cc pid pcrTime payloadSize s) :=
  noStateError_gate nofun <| noStateError_conclude (fun h => by cases pcrRequest_err h) fun _ =>
    noStateError_refusal <| noStateError_conclude (s.store_not_err _ _ _) fun _ => noStateError_succeed _ _ _

theorem execPesHdr_noStateError (streamId : BitVec 8) (dst bound payloadSize pts dts : Word64) :
    NoStateError (execPesHdr streamId dst bound payloadSize pts dts s) :=
  noStateError_gate nofun <| noStateError_conclude (fun h => by cases pesTicks_err h) fun _ =>
    noStateError_gate nofun <| noStateError_refusal <|
      noStateError_conclude (s.store_not_err _ _ _) fun _ => noStateError_succeed _ _ _

theorem writeTable_noStateError (dst : Word64) (packet : List Byte) : NoStateError (writeTable dst packet s) :=
  noStateError_gate nofun <| noStateError_refusal <|
    noStateError_conclude (s.store_not_err _ _ _) fun _ => noStateError_succeed _ _ _

theorem execPack_state_iff (pcr track : Bool) (src size pts dts streamId pid : Word64) :
    execPack pcr track src size pts dts streamId pid s = .next (s.raiseError .state) ↔ s.session ≠ .ready :=
  stateGate_iff <| noStateError_gate nofun <| noStateError_conclude (fun h => by simpa using packetize_err h) fun _ =>
    noStateError_refusal (noStateError_succeed _ _ _)

/-- With no frame before it `FIRST_FRAME[0]` is there exactly when the track has a frame (46_selector.md R213). -/
theorem remuxGate_eq_false_iff (hfirst : s.video.firstFrame = 0#32) :
    s.remuxGate = false ↔ s.session ≠ .ready ∨
      ((s.video.repeatSeg = true ∨ s.audio.repeatSeg = true) ∧ s.video.nFrames = 0#32) := by
  have hlead : s.video.firstFrame.toNat < s.video.nFrames.toNat ↔ s.video.nFrames ≠ 0#32 := by
    rw [hfirst, ne_eq, BitVec.toNat_eq]
    exact Nat.pos_iff_ne_zero
  simp [State.remuxGate, hlead, imp_iff_not_or]

theorem execRemux_state_iff : execRemux s = .next (s.raiseError .state) ↔ s.remuxGate = false := by
  refine boolGate_iff ?_
  cases hpass : remuxPass s with
  | done u => exact noStateError_succeed _ _ _
  | failed e u => exact noStateError_raise (by rcases remuxPass_err hpass with rfl | rfl <;> nofun) _
  | fault f =>
    intro t h
    cases h

theorem execInit_state_iff (frameRate sampleRate channelCount : Word64) :
    execInit frameRate sampleRate channelCount s = .next (s.raiseError .state) ↔ s.session ≠ .off :=
  stateGate_iff <| noStateError_gate nofun <| noStateError_gate nofun <| noStateError_gate nofun
    (noStateError_succeed _ _ _)

theorem appendCommand_noStateError (t : TrackId) (src size pts dts : Word64) (key : Bool)
    (finish : State → State) : NoStateError (appendCommand t src size pts dts key finish s) :=
  noStateError_conclude (fun h => by simpa using appendFrame_err h) fun _ =>
    noStateError_refusal (noStateError_succeed _ _ _)

theorem execAppend_state_iff (track key : Bool) (src size pts dts : Word64) :
    execAppend track key src size pts dts s = .next (s.raiseError .state) ↔ s.session ≠ .ready :=
  stateGate_iff <| noStateError_gate nofun (appendCommand_noStateError _ _ _ _ _ _ _)

theorem acceptFrame_state_iff (t : TrackId) (key : Bool) (src size encStatus : Word64) :
    acceptFrame t key src size encStatus s = .next (s.raiseError .state) ↔ s.session ≠ .ready :=
  stateGate_iff <| noStateError_gate nofun <| noStateError_gate nofun (appendCommand_noStateError _ _ _ _ _ _ _)

theorem execReset_state_iff : execReset s = .next (s.raiseError .state) ↔ s.session = .off :=
  stateGate_iff (noStateError_succeed _ _ _)

end Commands

/-- Settles O51: the state gate of each command, and that nothing behind it ends in `E_STATE`. -/
theorem stateGateIsTheTable : Obligations.StateGateIsTheTable := by
  intro i s hi hfirst
  cases i with
  | bwInit =>
    exact noGate_iff (noStateError_gate nofun (noStateError_refusal (noStateError_succeed _ _ _)))
  | putBits width value => exact execPutBits_state_iff width value
  | putBits64 width value => exact execPutBits64_state_iff width value
  | bwFlush => exact execBwFlush_state_iff
  | bwCount => exact execBwCount_state_iff
  | wrreg reg value => exact execWrreg_state_iff (of_decide_eq_true hi) value
  | rdreg => exact noGate_iff (noStateError_succeed _ _ _)
  | crc32 => exact noGate_iff (execCrc32_noStateError _ _ _)
  | tsHdr => exact noGate_iff (execTsHdr_noStateError _ _ _ _ _ _ _ _)
  | pesHdr => exact noGate_iff (execPesHdr_noStateError _ _ _ _ _ _)
  | pack => exact execPack_state_iff _ _ _ _ _ _ _ _
  | pat => exact noGate_iff (writeTable_noStateError _ _)
  | pmt => exact noGate_iff (writeTable_noStateError _ _)
  | remux => exact execRemux_state_iff.trans (remuxGate_eq_false_iff hfirst)
  | init => exact execInit_state_iff _ _ _
  | append => exact execAppend_state_iff _ _ _ _ _ _
  | acceptV => exact acceptFrame_state_iff _ _ _ _ _
  | acceptA => exact acceptFrame_state_iff _ _ _ _ _
  | reset => exact execReset_state_iff
  | teardown => exact noGate_iff (noStateError_succeed _ _ _)

end Sys2Proof.Machine
end

section

/-! The register file under `WRREG` and `RDREG` (10_state.md R24, R25; 47_session.md R242, R243), and the words of a
port that holds no whole packet (30_encoding.md R80; 60_exceptions.md R274). -/

namespace Sys2Proof

open Machine

/-! ## Register indices in headers (30_encoding.md R85) -/

theorem decodeHeader_wrreg_reserved {idx : BitVec 8} (h : Reg.ofIndex idx = none) :
    decodeHeader (headerWord 0x06#8 idx) = .error .reservedIndex := by
  simp [decodeHeader, decodeOpcode, writableHeader, h]

theorem decodeHeader_rdreg_reserved {idx : BitVec 8} (h : Reg.ofIndex idx = none) :
    decodeHeader (headerWord 0x07#8 idx) = .error .reservedIndex := by
  simp [decodeHeader, decodeOpcode, readableHeader, h]

/-! ## A port without a whole packet -/

theorem decodeOperands_short (hd : Header) (got : List Word64) {n : Nat} {ws : List Word64} (h : ws.length < n) :
    decodeOperands hd got n (ws.map .operand) = .waiting := by
  induction ws generalizing got n with
  | nil =>
    obtain ⟨n, rfl⟩ := Nat.exists_eq_succ_of_ne_zero h.ne'
    rfl
  | cons w ws ih =>
    obtain ⟨n, rfl⟩ := Nat.exists_eq_succ_of_ne_zero (Nat.ne_zero_of_lt h)
    exact ih (got ++ [w]) (Nat.lt_of_succ_lt_succ h)

theorem decodeOperands_header (hd : Header) (got : List Word64) {n : Nat} {ws : List Word64} (h : ws.length < n)
    (w : Word32) (rest : List PortWord) :
    decodeOperands hd got n (ws.map .operand ++ .header w :: rest) = .outOfStep := by
  induction ws generalizing got n with
  | nil =>
    obtain ⟨n, rfl⟩ := Nat.exists_eq_succ_of_ne_zero h.ne'
    rfl
  | cons w ws ih =>
    obtain ⟨n, rfl⟩ := Nat.exists_eq_succ_of_ne_zero (Nat.ne_zero_of_lt h)
    exact ih (got ++ [w]) (Nat.lt_of_succ_lt_succ h)

/-- The first words of a packet, one at least: its header and fewer operand words than are due. -/
theorem take_encode {i : Instr} {n : Nat} (hi : i.wellFormed = true) (hpos : 0 < n) (hlt : n < (encode i).length) :
    ∃ (h : Word32) (hd : Header) (ws : List Word64), (encode i).take n = .header h :: ws.map .operand ∧
      decodeHeader h = .ok hd ∧ ws.length < hd.operandCount := by
  obtain ⟨hd, ops, hlen, rfl⟩ := i.exists_header
  rw [Header.wellFormed_instr] at hi
  rw [encode_instr hlen, List.length_cons, List.length_map, hlen] at hlt
  obtain ⟨k, rfl⟩ := Nat.exists_eq_succ_of_ne_zero hpos.ne'
  refine ⟨_, hd, ops.take k, ?_, decodeHeader_eq_ok_iff.mpr ⟨rfl, hi⟩, ?_⟩
  · rw [encode_instr hlen, List.take_succ_cons, List.map_take]
  · rw [List.length_take]
    omega

theorem step_of_idle {s : State} (h : decode s.port = .idle) : step s = .next s := by simp only [step, State.fetch, h]

theorem step_of_waiting {s : State} (h : decode s.port = .waiting) : step s = .next s := by
  simp only [step, State.fetch, h]

theorem step_of_outOfStep {s : State} (h : decode s.port = .outOfStep) : step s = .refused .portOutOfStep := by
  simp only [step, State.fetch, h]

/-- Settles O6: a legal header waits while operand words alone are missing, and a word of the wrong kind is out of
step. -/
theorem aPortWithoutAWholePacketWaitsOrIsRefused : Obligations.APortWithoutAWholePacketWaitsOrIsRefused := by
  refine ⟨fun s i n hi hlt hport => ?_, fun s w rest hport => ?_, fun s i n w rest hi hpos hlt hport => ?_⟩
  · rcases Nat.eq_zero_or_pos n with rfl | hpos
    · exact step_of_idle (by rw [hport]; rfl)
    · obtain ⟨h, hd, ws, htake, hdec, hshort⟩ := take_encode hi hpos hlt
      exact step_of_waiting (by rw [hport, htake, decode_header _ _ hdec, decodeOperands_short _ _ hshort])
  · exact step_of_outOfStep (by rw [hport]; rfl)
  · obtain ⟨h, hd, ws, htake, hdec, hshort⟩ := take_encode hi hpos hlt
    exact step_of_outOfStep
      (by rw [hport, htake, List.cons_append, decode_header _ _ hdec, decodeOperands_header _ _ hshort])

end Sys2Proof

namespace Sys2Proof.Machine

/-! ## The values of registers (10_state.md R24) -/

theorem setWidth_toNat_lt {n : Nat} (x : BitVec n) (h : n ≤ 64) : (x.setWidth 64).toNat < 2 ^ n := by
  rw [BitVec.toNat_setWidth_of_le h]
  exact x.isLt

/-- Every register's value fits the width the table gives it. -/
theorem readReg_lt (s : State) (reg : Reg) : (s.readReg reg).toNat < 2 ^ regWidth reg := by
  rcases reg with g | ⟨t, k⟩
  · cases g
    case res0 | res1 | bias | bwBitcnt => exact BitVec.isLt _
    all_goals exact setWidth_toNat_lt _ (by decide)
  · cases k
    case tsNext | tsInc => exact BitVec.isLt _
    all_goals exact setWidth_toNat_lt _ (by decide)

/-- Settles O11: `readReg_lt`; the rest is how the command is defined. -/
theorem rdregReadsTheRegister : Obligations.RdregReadsTheRegister :=
  ⟨fun _ => rfl, fun _ => decodeHeader_rdreg_reserved, fun reg s => ⟨rfl, readReg_lt s reg⟩⟩

/-! ## Reading after a write -/

/-- A value that fits a register's width is read back. -/
theorem setWidth_setWidth_of_lt {v : Word64} {n : Nat} (h : v.toNat < 2 ^ n) : (v.setWidth n).setWidth 64 = v := by
  apply BitVec.eq_of_toNat_eq
  rw [BitVec.toNat_setWidth, BitVec.toNat_setWidth, Nat.mod_eq_of_lt h, Nat.mod_eq_of_lt v.isLt]

theorem setWidth_ofBool_of_le {v : Word64} (h : v.toNat ≤ 1) : (BitVec.ofBool (v.getLsbD 0)).setWidth 64 = v := by
  have hbit : v = 0#64 ∨ v = 1#64 := by
    rcases Nat.le_one_iff_eq_zero_or_eq_one.mp h with hv | hv
    · exact .inl (BitVec.eq_of_toNat_eq hv)
    · exact .inr (BitVec.eq_of_toNat_eq hv)
  rcases hbit with rfl | rfl <;> rfl

theorem State.readReg_writeReg_global_same {v : Word64} {g : GlobalReg} (h : globalLegal v g = true) (s : State) :
    (s.writeReg v (.global g)).readReg (.global g) = v := by
  cases g
  case pmtPid => exact setWidth_setWidth_of_lt (lt_of_le_of_lt (of_decide_eq_true h).2 (by decide))
  case tsid => exact setWidth_setWidth_of_lt (lt_of_le_of_lt (of_decide_eq_true h) (by decide))
  case bias => rfl
  case audioBatch => exact setWidth_setWidth_of_lt (lt_of_le_of_lt (of_decide_eq_true h).2 (by decide))
  case psiCc => exact setWidth_setWidth_of_lt (lt_of_le_of_lt (of_decide_eq_true h) (by decide))
  case outBase | outCap => exact setWidth_setWidth_of_lt (of_decide_eq_true h)
  all_goals cases h

theorem TrackState.readReg_writeReg_same {v : Word64} {k : TrackReg} (h : trackLegal v k = true) (tr : TrackState) :
    (tr.writeReg v k).readReg k = v := by
  cases k
  case codec => exact setWidth_setWidth_of_lt (lt_of_le_of_lt (of_decide_eq_true h) (by decide))
  case cc => exact setWidth_setWidth_of_lt (lt_of_le_of_lt (of_decide_eq_true h) (by decide))
  case tbufBase | tbufCap => exact setWidth_setWidth_of_lt (of_decide_eq_true h)
  case repeatSeg | hasDts => exact setWidth_ofBool_of_le (of_decide_eq_true h)
  all_goals cases h

theorem State.readReg_writeReg_same {v : Word64} {reg : Reg} (h : regLegal v reg = true) (s : State) :
    (s.writeReg v reg).readReg reg = v := by
  rcases reg with g | ⟨t, k⟩
  · exact State.readReg_writeReg_global_same h s
  · rw [State.writeReg, State.readReg, State.track_setTrack_same]
    exact TrackState.readReg_writeReg_same h _

theorem State.readReg_writeReg_global_other {g g' : GlobalReg} (h : g' ≠ g) (s : State) (v : Word64) :
    (s.writeReg v (.global g)).readReg (.global g') = s.readReg (.global g') := by
  cases g
  case pmtPid => cases g' with
    | pmtPid => exact absurd rfl h
    | _ => rfl
  case tsid => cases g' with
    | tsid => exact absurd rfl h
    | _ => rfl
  case bias => cases g' with
    | bias => exact absurd rfl h
    | _ => rfl
  case audioBatch => cases g' with
    | audioBatch => exact absurd rfl h
    | _ => rfl
  case psiCc => cases g' with
    | psiCc => exact absurd rfl h
    | _ => rfl
  case outBase => cases g' with
    | outBase => exact absurd rfl h
    | _ => rfl
  case outCap => cases g' with
    | outCap => exact absurd rfl h
    | _ => rfl
  -- the read-only registers
  all_goals rfl

theorem TrackState.readReg_writeReg_other {k k' : TrackReg} (h : k' ≠ k) (tr : TrackState) (v : Word64) :
    (tr.writeReg v k).readReg k' = tr.readReg k' := by
  cases k
  case codec => cases k' with
    | codec => exact absurd rfl h
    | _ => rfl
  case cc => cases k' with
    | cc => exact absurd rfl h
    | _ => rfl
  case tbufBase => cases k' with
    | tbufBase => exact absurd rfl h
    | _ => rfl
  case tbufCap => cases k' with
    | tbufCap => exact absurd rfl h
    | _ => rfl
  case repeatSeg => cases k' with
    | repeatSeg => exact absurd rfl h
    | _ => rfl
  case hasDts => cases k' with
    | hasDts => exact absurd rfl h
    | _ => rfl
  -- the read-only registers
  all_goals rfl

theorem State.readReg_setTrack_global (s : State) (t : TrackId) (tr : TrackState) (g : GlobalReg) :
    (s.setTrack t tr).readReg (.global g) = s.readReg (.global g) := by
  cases t <;> cases g <;> rfl

/-- No two registers share a field of the state. -/
theorem State.readReg_writeReg_other {r reg : Reg} (h : r ≠ reg) (s : State) (v : Word64) :
    (s.writeReg v reg).readReg r = s.readReg r := by
  rcases reg with g | ⟨t, k⟩ <;> rcases r with g' | ⟨t', k'⟩
  · exact State.readReg_writeReg_global_other (fun hg => h (congrArg Reg.global hg)) s v
  · cases g <;> rfl
  · exact s.readReg_setTrack_global t _ g'
  · rw [State.writeReg, State.readReg, State.readReg]
    by_cases ht : t' = t
    · subst ht
      rw [State.track_setTrack_same]
      exact TrackState.readReg_writeReg_other (fun hk => h (congrArg (Reg.track t') hk)) _ v
    · rw [State.track_setTrack_other s ht]

/-- The end of a command shows in `STATUS`, `RES0` and `RES1` alone. -/
theorem State.readReg_complete {r : Reg} (hstatus : r ≠ .global .status) (hres0 : r ≠ .global .res0)
    (hres1 : r ≠ .global .res1) (s : State) (r0 r1 : Word64) : (s.complete r0 r1).readReg r = s.readReg r := by
  rcases r with g | ⟨t, k⟩
  · cases g with
    | status => exact absurd rfl hstatus
    | res0 => exact absurd rfl hres0
    | res1 => exact absurd rfl hres1
    | _ => rfl
  · cases t <;> rfl

/-! ## What no register names -/

theorem writeReg_frame (s : State) (v : Word64) (reg : Reg) :
    (s.writeReg v reg).bwValid = s.bwValid ∧ (s.writeReg v reg).outValid = s.outValid ∧
      (s.writeReg v reg).phase = s.phase ∧ (s.writeReg v reg).port = s.port := by
  rcases reg with g | ⟨t, k⟩
  · cases g <;> exact ⟨rfl, rfl, rfl, rfl⟩
  · exact ⟨State.setTrack_bwValid s t _, State.setTrack_outValid s t _, State.setTrack_phase s t _,
      State.setTrack_port s t _⟩

/-- A register that may be written is none of the three the command reports in. -/
theorem ne_report_of_writable {reg : Reg} (h : reg.access ≠ .ro) :
    reg ≠ .global .status ∧ reg ≠ .global .res0 ∧ reg ≠ .global .res1 :=
  ⟨fun hr => h (hr ▸ rfl), fun hr => h (hr ▸ rfl), fun hr => h (hr ▸ rfl)⟩

/-- Behind its two gates `WRREG` tests the value. -/
theorem execWrreg_of_writable {reg : Reg} {s : State} (hro : reg.access ≠ .ro)
    (hgate : ¬ (reg.access = .rwOff ∧ s.session ≠ .off)) (value : Word64) :
    execWrreg reg value s =
      if regLegal value reg = false then .next (s.raiseError .range)
      else .next ((s.writeReg value reg).complete 0#64 0#64) := by
  rw [execWrreg, if_neg hro, if_neg hgate]
  cases regLegal value reg <;> rfl

/-- Settles O9: the three gates in their order, and behind them `State.writeReg` and the end of the command. -/
theorem wrregWritesOneRegister : Obligations.WrregWritesOneRegister := by
  refine ⟨fun _ _ => rfl, fun _ => decodeHeader_wrreg_reserved, fun reg value s => ?_⟩
  change if _ then execWrreg reg value s = _ else if _ then execWrreg reg value s = _
    else if _ then execWrreg reg value s = _ else ∃ t, execWrreg reg value s = _ ∧ _
  split_ifs with hro hgate hlegal
  · exact if_pos hro
  · exact (if_neg hro).trans (if_pos hgate)
  · exact (execWrreg_of_writable hro hgate value).trans (if_pos hlegal)
  · have hvalue : regLegal value reg = true := Bool.eq_true_of_not_eq_false hlegal
    obtain ⟨hstatus, hres0, hres1⟩ := ne_report_of_writable hro
    obtain ⟨hbwValid, houtValid, hphase, hport⟩ := writeReg_frame s value reg
    have hframes := keepsFrames_writeReg s value reg
    obtain ⟨_, hvinfos, hvextents⟩ := hframes .video
    obtain ⟨_, hainfos, haextents⟩ := hframes .audio
    refine ⟨_, (execWrreg_of_writable hro hgate value).trans (if_neg hlegal), ?_,
      fun r hne hstatus hres0 hres1 => ?_, rfl, rfl, rfl, s.writeReg_session value reg, hbwValid, houtValid,
      s.writeReg_mem value reg, hvinfos, hvextents, hainfos, haextents, hphase, hport⟩
    · rw [State.readReg_complete hstatus hres0 hres1, State.readReg_writeReg_same hvalue]
    · rw [State.readReg_complete hstatus hres0 hres1, State.readReg_writeReg_other hne]

end Sys2Proof.Machine
end

section

/-! The session commands: `INIT`, `APPEND`, `ACCEPT_V`, `ACCEPT_A`, `RESET` and `TEARDOWN` (47_session.md). -/

namespace Sys2Proof.Machine

/-! ## `RESET` and `TEARDOWN` (R238, R240) -/

/-- Settles O46: `TrackState.emptied` zeroes the counts and cursors of a track and no more. -/
theorem resetEmptiesTheBuffers : Obligations.ResetEmptiesTheBuffers := by
  have hheader : headerWord 0x34#8 0x00#8 = 0x00000034#32 := by decide
  refine ⟨congrArg (fun w => [PortWord.header w]) hheader, fun s => ?_⟩
  change if _ then execReset s = _ else ∃ t, execReset s = _ ∧ _
  split_ifs with hoff
  · exact if_pos hoff
  · exact ⟨_, if_neg hoff, rfl⟩

/-- Settles O47: `TrackState.closed` zeroes the counts, cursors, times, rates and channels of a track and no more. -/
theorem teardownClosesTheSession : Obligations.TeardownClosesTheSession := by
  have hheader : headerWord 0x35#8 0x00#8 = 0x00000035#32 := by decide
  exact ⟨congrArg (fun w => [PortWord.header w]) hheader, fun _ => ⟨_, rfl, rfl⟩⟩

/-! ## `INIT` (R226) -/

/-- Three regions that a session may have: each with a length, each in `M`, and no two with a byte in common. -/
theorem regionsUsable_eq_false_iff (v a o : Nat × Nat) :
    regionsUsable [v, a, o] = false ↔
      (v.2 = 0 ∨ a.2 = 0 ∨ o.2 = 0) ∨
        (2 ^ 32 < v.1 + v.2 ∨ 2 ^ 32 < a.1 + a.2 ∨ 2 ^ 32 < o.1 + o.2) ∨
        (regionsOverlap v.1 v.2 a.1 a.2 = true ∨ regionsOverlap v.1 v.2 o.1 o.2 = true ∨
          regionsOverlap a.1 a.2 o.1 o.2 = true) := by
  rw [← Bool.not_eq_true]
  simp only [regionsUsable, inMemory, List.all_cons, List.all_nil, Bool.and_eq_true, Bool.and_true,
    Bool.not_eq_true', decide_eq_true_eq]
  simp only [Config.memSize, ← Bool.not_eq_true, ← not_le]
  tauto

theorem fits32_and_eq_true_iff (x y z : Word64) :
    (fits32 x && fits32 y && fits32 z) = true ↔
      ¬ (2 ^ 32 ≤ x.toNat ∨ 2 ^ 32 ≤ y.toNat ∨ 2 ^ 32 ≤ z.toNat) := by
  simp only [fits32, Bool.and_eq_true, decide_eq_true_iff]
  omega

theorem zeroRate_iff (x y : Word64) : x = 0#64 ∨ y = 0#64 ↔ x.toNat = 0 ∨ y.toNat = 0 := by
  rw [← BitVec.toNat_inj, ← BitVec.toNat_inj]
  rfl

section Init
variable {frameRate sampleRate channelCount : Word64} {s : State} (hoff : s.session = .off)
include hoff

theorem execInit_operandRange (h : (fits32 frameRate && fits32 sampleRate && fits32 channelCount) = false) :
    execInit frameRate sampleRate channelCount s = .next (s.raiseError .range) := by
  rw [execInit, if_neg (not_not.mpr hoff), h]
  rfl

variable (hfits : (fits32 frameRate && fits32 sampleRate && fits32 channelCount) = true)
include hfits

theorem execInit_zeroRate (h : frameRate = 0#64 ∨ sampleRate = 0#64) :
    execInit frameRate sampleRate channelCount s = .next (s.raiseError .range) := by
  rw [execInit, if_neg (not_not.mpr hoff), if_neg (by simpa using hfits), if_pos h, raise]

variable (hrates : ¬ (frameRate = 0#64 ∨ sampleRate = 0#64))
include hrates

theorem execInit_alloc (h : regionsUsable s.sessionRegions = false) :
    execInit frameRate sampleRate channelCount s = .next (s.raiseError .alloc) := by
  rw [execInit, if_neg (not_not.mpr hoff), if_neg (by simpa using hfits), if_neg hrates, h]
  rfl

theorem execInit_opens (h : regionsUsable s.sessionRegions = true) :
    execInit frameRate sampleRate channelCount s = .next (State.complete
      { s with
        video := s.video.opened (low32 frameRate) 0#32 (fdiv (f64OfNat 1) (f64OfNat frameRate.toNat))
        audio := s.audio.opened (low32 sampleRate) (low32 channelCount)
          (fdiv (f64OfNat Config.aacSamples) (f64OfNat sampleRate.toNat))
        psiCc := 0#4, outWr := 0#32, outPkts := 0#32, outValid := false, session := .ready } 0#64 0#64) := by
  rw [execInit, if_neg (not_not.mpr hoff), if_neg (by simpa using hfits), if_neg hrates, h]
  rfl

end Init

/-- Settles O43: the four gates in their order, and behind them the two tracks opened. -/
theorem initOpensTheSession : Obligations.InitOpensTheSession := by
  have hheader : headerWord 0x30#8 0x00#8 = 0x00000030#32 := by decide
  refine ⟨fun f r c => congrArg (fun w => [PortWord.header w, .operand f, .operand r, .operand c]) hheader,
    fun f r c s => ?_⟩
  have hfits := fits32_and_eq_true_iff f r c
  have husable := regionsUsable_eq_false_iff (s.video.tbufBase.toNat, s.video.tbufCap.toNat)
    (s.audio.tbufBase.toNat, s.audio.tbufCap.toNat) (s.outBase.toNat, s.outCap.toNat)
  intro v a o
  split_ifs with hon hrange hzero halloc
  · exact if_pos hon
  · exact execInit_operandRange (not_not.mp hon) (Bool.eq_false_iff.mpr fun hall => hfits.mp hall hrange)
  · exact execInit_zeroRate (not_not.mp hon) (hfits.mpr hrange) ((zeroRate_iff f r).mpr hzero)
  · exact execInit_alloc (not_not.mp hon) (hfits.mpr hrange) (mt (zeroRate_iff f r).mp hzero) (husable.mpr halloc)
  · exact ⟨_, execInit_opens (not_not.mp hon) (hfits.mpr hrange) (mt (zeroRate_iff f r).mp hzero)
      (Bool.eq_true_of_not_eq_false (mt husable.mp halloc)), rfl⟩

/-! ## Appending a frame (R230, R234, R235) -/

theorem regionOk_eq_false_iff (a n : Word64) :
    regionOk a n = false ↔ 2 ^ 32 ≤ a.toNat ∨ 2 ^ 32 ≤ n.toNat ∨ 2 ^ 32 < a.toNat + n.toNat := by
  rw [← Bool.not_eq_true, regionOk_iff, Config.memSize]
  omega

/-- A track with one more frame of `size` bytes at its write cursor (R230). -/
def TrackState.appended (tr : TrackState) (size pts dts : Word64) (key : Bool) : TrackState :=
  { tr with
    nFrames := BitVec.ofNat 32 (tr.nFrames.toNat + 1)
    wrCur := BitVec.ofNat 32 (tr.wrCur.toNat + size.toNat)
    infos := tr.infos ++ [{ pts := pts, dts := dts, key := key }]
    extents := tr.extents ++ [{ offset := tr.wrCur, size := size.setWidth 32 }] }

theorem TrackState.appended_wrCur (tr : TrackState) (size pts dts : Word64) (key : Bool) :
    (tr.appended size pts dts key).wrCur = BitVec.ofNat 32 (tr.wrCur.toNat + size.toNat) := rfl

/-- On a good track `withFrame` puts its entries behind the ones held. -/
theorem TrackState.Ok.withFrame_eq_appended {tr : TrackState} (h : tr.Ok) (t : TrackId) (size pts dts : Word64)
    (key : Bool) :
    tr.withFrame t (low32 size) pts dts key = tr.appended size pts dts (key || decide (t = .audio)) := by
  have hframes : tr.nFrames + 1#32 = BitVec.ofNat 32 (tr.nFrames.toNat + 1) := by
    rw [BitVec.ofNat_add, BitVec.ofNat_toNat, BitVec.setWidth_eq]
  have hwr : tr.wrCur + low32 size = BitVec.ofNat 32 (tr.wrCur.toNat + size.toNat) := by
    rw [BitVec.ofNat_add, BitVec.ofNat_toNat, BitVec.setWidth_eq, BitVec.ofNat_toNat, low32]
  have hinfos := h.withFrame_infos_append t (low32 size) pts dts key
  have hextents := h.withFrame_extents_append t (low32 size) pts dts key
  unfold TrackState.withFrame at hinfos hextents ⊢
  dsimp only at hinfos hextents ⊢
  rw [hinfos, hextents, hframes, hwr]
  rfl

section Append
variable {t : TrackId} {src size pts dts : Word64} {key : Bool} {finish : State → State} {s : State}

theorem appendCommand_notFinite (h : (finite pts && finite dts) = false) :
    appendCommand t src size pts dts key finish s = .next (s.raiseError .range) := by
  rw [appendCommand, appendFrame, h]
  rfl

variable (hfinite : (finite pts && finite dts) = true)
include hfinite

theorem appendCommand_capacity (h : 1000 ≤ (s.track t).nFrames.toNat) :
    appendCommand t src size pts dts key finish s = .next (s.raiseError .capacity) := by
  have hframe : appendFrame t src size pts dts key s = .err .capacity := by
    rw [appendFrame, if_neg (by simpa using hfinite)]
    exact if_pos h
  rw [appendCommand, hframe, conclude_err]

variable (hroom : (s.track t).nFrames.toNat < 1000)
include hroom

theorem appendCommand_overflow (h : (s.track t).tbufCap.toNat < (s.track t).wrCur.toNat + size.toNat) :
    appendCommand t src size pts dts key finish s = .next (s.raiseError .overflow) := by
  have hframe : appendFrame t src size pts dts key s = .err .overflow := by
    rw [appendFrame, if_neg (by simpa using hfinite)]
    exact (if_neg (not_le.mpr hroom)).trans (if_pos h)
  rw [appendCommand, hframe, conclude_err]

theorem appendCommand_stores (hcap : (s.track t).wrCur.toNat + size.toNat ≤ (s.track t).tbufCap.toNat)
    (hsrc : regionOk src size = true) (hok : (s.track t).Ok)
    (hregion : (s.track t).tbufBase.toNat + (s.track t).tbufCap.toNat ≤ 2 ^ 32)
    (hoverlap : regionsOverlap src.toNat size.toNat ((s.track t).tbufBase.toNat + (s.track t).wrCur.toNat)
      size.toNat = false) :
    appendCommand t src size pts dts key finish s = .next (State.complete
      (finish (State.setTrack
        { s with mem := s.mem.writeBytes ((s.track t).tbufBase.toNat + (s.track t).wrCur.toNat)
                          (s.mem.readBytes src.toNat size.toNat) }
        t ((s.track t).appended size pts dts (key || decide (t = .audio)))))
      (BitVec.ofNat 64 (s.track t).nFrames.toNat)
      (BitVec.ofNat 64 ((s.track t).wrCur.toNat + size.toNat))) := by
  obtain ⟨hpts, hdts⟩ := Bool.and_eq_true_iff.mp hfinite
  obtain ⟨_, _, hmem⟩ := (regionOk_iff src size).mp hsrc
  obtain ⟨u, hu⟩ := appendFrame_succeeds (key := key) hpts hdts hroom hcap hmem hregion
  obtain ⟨_, _, _, _, _, rfl⟩ := appendFrame_ok hu
  rw [hok.withFrame_eq_appended] at hu
  have hmax := (s.track t).tbufCap.isLt
  have hwr : (BitVec.ofNat 32 ((s.track t).wrCur.toNat + size.toNat)).setWidth 64 =
      BitVec.ofNat 64 ((s.track t).wrCur.toNat + size.toNat) := BitVec.setWidth_ofNat_of_le_of_lt (by decide) (by omega)
  rw [appendCommand, hu, conclude_ok, appendOverlap, hoverlap, if_neg Bool.false_ne_true, State.track_setTrack_same,
    TrackState.appended_wrCur, hwr, BitVec.ofNat_toNat]
  rfl

end Append

theorem State.complete_setTrack (s : State) (t : TrackId) (tr : TrackState) (r0 r1 : Word64) :
    (s.setTrack t tr).complete r0 r1 = (s.complete r0 r1).setTrack t tr := by cases t <;> rfl

/-- An append behind its operand checks: its two errors in their order, and else one store at the write cursor and the
track `tr'`, which is what the command makes of the track with its frame. -/
theorem appendCommand_adds {t : TrackId} {src size pts dts : Word64} {key : Bool} {finish : State → State} {s : State}
    {tr' : TrackState} (hsrc : regionOk src size = true) (hfinite : (finite pts && finite dts) = true)
    (hfinish : ∀ u : State,
      finish (u.setTrack t ((s.track t).appended size pts dts (key || decide (t = .audio)))) = u.setTrack t tr') :
    if 1000 ≤ (s.track t).nFrames.toNat then
      appendCommand t src size pts dts key finish s = .next (s.raiseError .capacity)
    else if (s.track t).tbufCap.toNat < (s.track t).wrCur.toNat + size.toNat then
      appendCommand t src size pts dts key finish s = .next (s.raiseError .overflow)
    else (s.track t).Ok → (s.track t).tbufBase.toNat + (s.track t).tbufCap.toNat ≤ 2 ^ 32 →
      regionsOverlap src.toNat size.toNat ((s.track t).tbufBase.toNat + (s.track t).wrCur.toNat) size.toNat = false →
      ∃ u, appendCommand t src size pts dts key finish s = .next u ∧
        Memory.Stored s.mem u.mem ((s.track t).tbufBase.toNat + (s.track t).wrCur.toNat)
          (s.mem.readBytes src.toNat size.toNat) ∧
        u = State.setTrack
          { s with mem := u.mem, err := .ok, res0 := BitVec.ofNat 64 (s.track t).nFrames.toNat,
                   res1 := BitVec.ofNat 64 ((s.track t).wrCur.toNat + size.toNat) } t tr' := by
  split_ifs with hfull hover
  · exact appendCommand_capacity hfinite hfull
  · exact appendCommand_overflow hfinite (not_le.mp hfull) hover
  · intro hok hregion hoverlap
    have hexec := appendCommand_stores (key := key) (finish := finish) hfinite (not_le.mp hfull) (not_lt.mp hover) hsrc
      hok hregion hoverlap
    rw [hfinish, State.complete_setTrack] at hexec
    refine ⟨_, hexec, ?_, ?_⟩ <;> rw [State.setTrack_mem]
    · exact s.mem.stored_writeBytes _ _
    · rfl

/-! ## The statements -/

theorem execAppend_eq_appendCommand {s : State} {src size : Word64} (hready : s.session = .ready)
    (hsrc : regionOk src size = true) (track key : Bool) (pts dts : Word64) :
    exec (.append track key src size pts dts) s = appendCommand (.ofBit track) src size pts dts key id s := by
  change execAppend track key src size pts dts s = _
  rw [execAppend, if_neg (not_not.mpr hready), hsrc]
  rfl

/-- Settles O44: the gates in their order, and behind them `appendCommand_adds`. -/
theorem appendAddsOneFrame : Obligations.AppendAddsOneFrame := by
  refine ⟨fun track key src size pts dts => congrArg (fun f => [PortWord.header (headerWord 0x31#8 f), .operand src,
      .operand size, .operand pts, .operand dts]) (flagBits_eq track key false), fun track key src size pts dts s => ?_⟩
  have hregion := regionOk_eq_false_iff src size
  intro tr
  by_cases hnot : s.session ≠ .ready
  · rw [if_pos hnot]
    exact if_pos hnot
  rw [if_neg hnot]
  by_cases hrange : 2 ^ 32 ≤ src.toNat ∨ 2 ^ 32 ≤ size.toNat ∨ 2 ^ 32 < src.toNat + size.toNat
  · rw [if_pos hrange]
    exact (if_neg hnot).trans (if_pos (by simpa using hregion.mpr hrange))
  have hsrc : regionOk src size = true := Bool.eq_true_of_not_eq_false (mt hregion.mp hrange)
  rw [if_neg hrange, execAppend_eq_appendCommand (not_not.mp hnot) hsrc]
  by_cases hinf : finite pts = false ∨ finite dts = false
  · rw [if_pos hinf]
    exact appendCommand_notFinite (Bool.and_eq_false_iff.mpr hinf)
  rw [if_neg hinf]
  refine appendCommand_adds hsrc (Bool.eq_true_of_not_eq_false (mt Bool.and_eq_false_iff.mp hinf)) fun u => ?_
  have hkey : decide (TrackId.ofBit track = .audio) = track := by cases track <;> rfl
  rw [hkey]
  rfl

theorem State.advanceTime_setTrack (s : State) (t : TrackId) (tr : TrackState) :
    (s.setTrack t tr).advanceTime t = s.setTrack t { tr with tsNext := fadd tr.tsNext tr.tsInc } := by
  rw [State.advanceTime, State.track_setTrack_same, State.setTrack_setTrack]

theorem acceptFrame_eq_appendCommand {t : TrackId} {s : State} {src size status : Word64} (hready : s.session = .ready)
    (hsrc : regionOk src size = true) (hstatus : status.toNat = 0) (key : Bool) :
    acceptFrame t key src size status s =
      appendCommand t src size (s.track t).tsNext (s.track t).tsNext key (fun u => u.advanceTime t) s := by
  obtain rfl : status = 0#64 := BitVec.eq_of_toNat_eq hstatus
  rw [acceptFrame, if_neg (not_not.mpr hready), hsrc]
  rfl

/-- An accept command is an append with the derived times, behind the encoder's status as one gate more. -/
theorem acceptsFrame_of_exec {i : Instr} {t : TrackId} {key : Bool} {src size status : Word64} {s : State}
    (hexec : exec i s = acceptFrame t key src size status s) (hkey : (key || decide (t = .audio)) = key) :
    acceptsFrame i t key src size status s := by
  have hregion := regionOk_eq_false_iff src size
  rw [acceptsFrame, hexec]
  by_cases hnot : s.session ≠ .ready
  · rw [if_pos hnot]
    exact if_pos hnot
  rw [if_neg hnot]
  by_cases hrange : 2 ^ 32 ≤ src.toNat ∨ 2 ^ 32 ≤ size.toNat ∨ 2 ^ 32 < src.toNat + size.toNat
  · rw [if_pos hrange]
    exact (if_neg hnot).trans (if_pos (by simpa using hregion.mpr hrange))
  have hsrc : regionOk src size = true := Bool.eq_true_of_not_eq_false (mt hregion.mp hrange)
  rw [if_neg hrange]
  by_cases hstatus : status.toNat ≠ 0
  · have hne : status ≠ 0#64 := fun h => hstatus (congrArg BitVec.toNat h)
    rw [if_pos hstatus, acceptFrame, if_neg hnot, hsrc]
    exact if_pos hne
  rw [if_neg hstatus, acceptFrame_eq_appendCommand (not_not.mp hnot) hsrc (not_not.mp hstatus)]
  by_cases hinf : finite (s.track t).tsNext = false
  · rw [if_pos hinf]
    exact appendCommand_notFinite (by rw [hinf]; rfl)
  rw [if_neg hinf]
  refine appendCommand_adds hsrc (by rw [Bool.eq_true_of_not_eq_false hinf]; rfl) fun u => ?_
  rw [State.advanceTime_setTrack, hkey]
  rfl

/-- Settles O45: `acceptsFrame_of_exec` for the two commands, each on its own track. -/
theorem acceptAddsAFrameWithTheDerivedTime : Obligations.AcceptAddsAFrameWithTheDerivedTime := by
  have hheader : headerWord 0x33#8 0x00#8 = 0x00000033#32 := by decide
  refine ⟨fun key src size status => ?_, fun src size status => ?_, fun key src size status s => ?_,
    fun src size status s => ?_⟩
  · cases key <;> rfl
  · exact congrArg (fun w => [PortWord.header w, .operand src, .operand size, .operand status]) hheader
  · exact acceptsFrame_of_exec rfl (Bool.or_false key)
  · exact acceptsFrame_of_exec rfl rfl

end Sys2Proof.Machine
end
